-- ==== Sys2Proof/Word.lean ====
section
/-! DEFINITION. The words of the block: every quantity it moves is one byte, and the one assembled quantity, the response
status, is 16 bits (00_scope R11, R17; 30_encoding R96; 20_memory R67). -/

namespace Sys2Proof

/-- `u8` of rule R11: an unsigned byte; bit 0 is its least significant bit (R12). -/
abbrev Byte := BitVec 8

/-- The 16-bit response status of rules R64 (b) and R96. -/
abbrev Half := BitVec 16

end Sys2Proof
end

