-- ==== Sys2Proof/Config.lean ====
section
/-! DEFINITION. What is fixed for one machine (the parameters and constants of 00_scope R6, R7), what the outside world can
do to it (its events, 00_scope R8, R9), and the values the spec leaves open (`draw(T)`, R13), which have no body. -/

namespace Sys2Proof

/-! ## Constants (00_scope R7) -/

/-- `START = 0x41` (ASCII 'A'). -/
abbrev START : Byte := 0x41
/-- `MAX_DATA = 8`: most data bytes a Command holds. -/
abbrev MAX_DATA : Nat := 8
/-- `RESP_CODE = 0x01`. -/
abbrev RESP_CODE : Byte := 0x01
/-- `STATUS_OK = 0x0000`. -/
abbrev STATUS_OK : Half := 0x0000
/-- `STATUS_ERROR = 0x0001`. -/
abbrev STATUS_ERROR : Half := 0x0001

/-! ## Parameters (00_scope R6) -/

/-- The five trigger modes of a pin binding (42 R191). -/
inductive TriggerMode where
  | rising
  | falling
  | change
  | levelHigh
  | levelLow
deriving DecidableEq, Repr, Inhabited

/-- One configured binding `{pin, mode, cmd_code, cmd_data, cmd_len}` (00 R6, 10 R32); `cmd_len` is the length of `data`. -/
structure Binding where
  pin  : Nat
  mode : TriggerMode
  code : Byte
  data : List Byte
deriving DecidableEq, Repr, Inhabited

/-- The named parameters of 00_scope R6. No step writes them (10 R20). `N_BIND` is the length of `bind`. -/
structure Config where
  /-- `NUM_CHANNELS` -/
  numChannels  : Nat
  /-- `RB_CAP` -/
  rbCap        : Nat
  /-- `SER_TIMEOUT` -/
  serTimeout   : Nat
  /-- `NET_TIMEOUT` -/
  netTimeout   : Nat
  /-- `MAX_PACKET` -/
  maxPacket    : Nat
  /-- `MAX_BINDINGS` -/
  maxBindings  : Nat
  /-- `BIND[0..N_BIND-1]` -/
  bind         : List Binding
  /-- `HIST_RESET[k]` -/
  histReset    : List Bool
  /-- `NVS_IP_ADDR` -/
  nvsIpAddr    : Nat
  /-- `OCR_RESET` -/
  ocrReset     : Byte
  /-- `MAILBOX_WIRED` -/
  mailboxWired : Bool
deriving DecidableEq, Repr, Inhabited

/-- DESIGN CHOICE (log 2), unsafe for a statement about `State.reset` alone: the parameters of `State.reset` are the spec's
reference configuration `TCFG` (92 D37), "test values, not claims about any device". -/
def Config.reference : Config :=
  { numChannels := 6, rbCap := 8, serTimeout := 3, netTimeout := 2, maxPacket := 16, maxBindings := 4,
    bind := [], histReset := [], nvsIpAddr := 0, ocrReset := 0, mailboxWired := true }

/-! ## The moves of the agents and of the environment (00_scope R8, R9) -/

/-- The two interrupt sources (60 R285). -/
inductive Interrupt where
  /-- byte received: the step `RxByte(b)` (41 R150) -/
  | rxByte (b : Byte)
  /-- timer compare-match: the step `BamTick` (45 R247) -/
  | bamTick
deriving DecidableEq, Repr, Inhabited

/-- The Transport's session (42 R188: "at least: listening, established, closed"). -/
inductive Session where
  | listening
  | established
  | closed
deriving DecidableEq, Repr, Inhabited

/-- One move of one agent. The first three groups are the steps of 00_scope R8, the last is the environment's own. -/
inductive Event where
  /-- an interrupt step of the RX or the BAM agent -/
  | interrupt (i : Interrupt)
  /-- one main-loop iteration (43 R210); element k of `arrivals` lists the interrupts that fall at the k-th boundary between
  atomic units INSIDE it (20 R78, 60 R288; log 3) -/
  | poll (arrivals : List (List Interrupt))
  /-- the supervisor's `Reset` (70 R310) -/
  | reset
  /-- the level of pin `p` becomes `level` (00 R9 `di_level`, 93 U22) -/
  | pin (p : Nat) (level : Bool)
  /-- the network peer makes `bytes` readable (30 R104 `NetData`, 42 R188) -/
  | netData (bytes : List Byte)
  /-- the Transport decides how many bytes a coming read returns (42 R182, 93 U5) -/
  | netReadSize (n : Nat)
  /-- the peer connects or disconnects, or the Transport listens again (42 R188, 93 U14); DESIGN CHOICE, unsafe (log 7): R188 does
  not say what that does to unread bytes, and here it leaves them readable -/
  | netSession (x : Session)
deriving DecidableEq, Repr, Inhabited

/-! ## Free values: `draw(T)` of 00_scope R13, "a value of type T chosen by nobody in particular". Each is applied to the
counter `sched.draws`; none has a body, so nothing can be proved of a value (log 8). -/

/-- An operand nobody supplied (40 R124, 93 U3). -/
opaque Config.freeByte : Nat → Byte
/-- How many bytes a read returns where the environment named no size (42 R182, 93 U5). -/
opaque Config.freeReadSize : Nat → Nat
/-- The level of a pin the environment has not set (93 U22). -/
opaque Config.freeLevel : Nat → Bool
/-- Which agent moves next where no move is listed (00 R8, 93 U20). -/
opaque Config.freeEvent : Nat → Event

end Sys2Proof
end

