-- ==== Sys2Proof/Syntax.lean ====
section
/-! DEFINITION. The instructions of the block: its wire commands and its one response packet, one constructor per row of
`spec/opcode_table.json` (30_encoding R92, R96, R98). START, CODE and CHECKSUM are not operands: they are fixed by the rest. -/

namespace Sys2Proof

/-- Operands in wire order, each one unsigned byte (30 R96); the response carries its 16-bit status. -/
inductive Instr where
  /-- 0x74, format F0 (40 R125) -/
  | test
  /-- 0x01, format F2 (40 R127) -/
  | setch (channel value : Byte)
  /-- 0x02, format F3 (40 R128) -/
  | fade (channel target speed : Byte)
  /-- 0x03, format F4 (40 R129) -/
  | setgrp (groupStart r g b : Byte)
  /-- 0xF0, format F4 (40 R130) -/
  | setip (ip0 ip1 ip2 ip3 : Byte)
  /-- 0xFE, format F0 (40 R131) -/
  | reboot
  /-- the response packet, device to peer (30 R92) -/
  | resp (status : Half)
deriving DecidableEq, Repr, Inhabited

/-- A response has the bytes of a SETCH; the direction alone tells them apart (30 R106). -/
inductive Direction where
  | toDevice
  | toPeer
deriving DecidableEq, Repr, Inhabited

end Sys2Proof
end

