-- ==== Sys2Proof/Decode.lean ====
section
/-! DEFINITION. From bytes to instructions and back (30_encoding): the checksum, the command descriptor table, a decoder total
on any bytes that rejects by name, and the encoder. -/

namespace Sys2Proof

/-! ## Checksum (30 R93) -/

/-- Even-parity bit of a byte: "XOR of its 8 bits; 0 or 1". -/
def par (b : Byte) : Nat :=
  (b.getLsbD 0 ^^ b.getLsbD 1 ^^ b.getLsbD 2 ^^ b.getLsbD 3 ^^
   b.getLsbD 4 ^^ b.getLsbD 5 ^^ b.getLsbD 6 ^^ b.getLsbD 7).toNat

/-- "sum (mod 256, natural wraparound) the parity bits of `startByte`, `code`, and each data byte". -/
def checksum (start code : Byte) (data : List Byte) : Byte :=
  BitVec.ofNat 8 (((start :: code :: data).map par).sum)

/-! ## The two halves of a status (20 R64 (b)) -/

/-- `v[15:8]`. -/
def hiByte (v : Half) : Byte := v.extractLsb' 8 8
/-- `v[7:0]`. -/
def loByte (v : Half) : Byte := v.extractLsb' 0 8
/-- `{hi, lo}`, high byte first. -/
def joinBytes (hi lo : Byte) : Half := hi ++ lo

/-! ## The command descriptor table (30 R98, R99) -/

/-- A row of the table: code and required length. The handler is `instrOfCommand` followed by `exec`. -/
structure Descriptor where
  code           : Byte
  requiredLength : Nat
deriving DecidableEq, Repr

/-- "`0x74 ('t')`:0, `0x01`:2, `0x02`:3, `0x03`:4, `0xF0`:4, `0xFE`:0." -/
def commandTable : List Descriptor :=
  [⟨0x74, 0⟩, ⟨0x01, 2⟩, ⟨0x02, 3⟩, ⟨0x03, 4⟩, ⟨0xF0, 4⟩, ⟨0xFE, 0⟩]

/-- `hasCommand(code)`: true exactly for the six codes. -/
def hasCommand (c : Byte) : Bool := commandTable.any (fun d => d.code == c)

/-- `requiredLength(code)`: the table's value, "0 if code unknown". -/
def requiredLength (c : Byte) : Nat :=
  match commandTable.find? (fun d => d.code == c) with
  | some d => d.requiredLength
  | none => 0

/-! ## Instructions as packets -/

/-- CODE of an instruction. -/
def Instr.code : Instr → Byte
  | .test => 0x74
  | .setch _ _ => 0x01
  | .fade _ _ _ => 0x02
  | .setgrp _ _ _ _ => 0x03
  | .setip _ _ _ _ => 0xF0
  | .reboot => 0xFE
  | .resp _ => RESP_CODE

/-- DATA of an instruction, in wire order (30 R96). -/
def Instr.data : Instr → List Byte
  | .test => []
  | .setch channel value => [channel, value]
  | .fade channel target speed => [channel, target, speed]
  | .setgrp groupStart r g b => [groupStart, r, g, b]
  | .setip ip0 ip1 ip2 ip3 => [ip0, ip1, ip2, ip3]
  | .reboot => []
  | .resp st => [hiByte st, loByte st]

/-- Which way the packet travels (30 R92, R106). -/
def Instr.direction : Instr → Direction
  | .test | .setch _ _ | .fade _ _ _ | .setgrp _ _ _ _ | .setip _ _ _ _ | .reboot => .toDevice
  | .resp _ => .toPeer

/-- `[ START | CODE | DATA | CHECKSUM ]` (30 R90). -/
def packet (code : Byte) (data : List Byte) : List Byte :=
  START :: code :: (data ++ [checksum START code data])

/-- The command with this code and these operands (30 R96, R98); none for an unknown code. -/
def instrOfCommand (code d0 d1 d2 d3 : Byte) : Option Instr :=
  if code = 0x74 then some .test
  else if code = 0x01 then some (.setch d0 d1)
  else if code = 0x02 then some (.fade d0 d1 d2)
  else if code = 0x03 then some (.setgrp d0 d1 d2 d3)
  else if code = 0xF0 then some (.setip d0 d1 d2 d3)
  else if code = 0xFE then some .reboot
  else none

/-! ## Decoding -/

/-- Why bytes are no packet (30 R100, R101). -/
inductive DecodeError where
  /-- the bytes end before the packet does -/
  | truncated
  /-- the first byte is not 0x41 -/
  | badStart (b : Byte)
  /-- CODE is none of the table's, or (to the peer) not 0x01 -/
  | unknownCode (b : Byte)
  /-- the last byte is not the checksum of the others -/
  | badChecksum (b : Byte)
  /-- a response whose status is neither OK nor ERROR (30 R92) -/
  | badStatus (st : Half)
deriving DecidableEq, Repr

/-- A packet's instruction with the bytes after it, or the reason there is none. -/
inductive Decoded where
  | ok (i : Instr) (rest : List Byte)
  | rejected (e : DecodeError)
deriving DecidableEq, Repr

/-- The codes of one direction: the six commands, or the one response (30 R92, R98). -/
def knownCode (dir : Direction) (c : Byte) : Bool :=
  match dir with
  | .toDevice => hasCommand c
  | .toPeer => c == RESP_CODE

/-- The data length CODE fixes (30 R97); a response has two data bytes (R92). -/
def dataLength (dir : Direction) (c : Byte) : Nat :=
  match dir with
  | .toDevice => requiredLength c
  | .toPeer => 2

/-- The instruction of a packet whose code is known and whose data has the code's length. -/
def instrOfPacket (dir : Direction) (c : Byte) (d : List Byte) (rest : List Byte) : Decoded :=
  match dir with
  | .toDevice =>
    match instrOfCommand c (d.getD 0 0) (d.getD 1 0) (d.getD 2 0) (d.getD 3 0) with
    | some i => .ok i rest
    | none => .rejected (.unknownCode c)
  | .toPeer =>
    let st := joinBytes (d.getD 0 0) (d.getD 1 0)
    if st = STATUS_OK ∨ st = STATUS_ERROR then .ok (.resp st) rest else .rejected (.badStatus st)

/-- The first packet of a byte sequence: START, then CODE, which fixes the length (30 R97), then DATA and CHECKSUM. -/
def decode (dir : Direction) : List Byte → Decoded
  | [] => .rejected .truncated
  | [s] => .rejected (if s = START then .truncated else .badStart s)
  | s :: c :: body =>
    if s ≠ START then .rejected (.badStart s)
    else if knownCode dir c = false then .rejected (.unknownCode c)
    else
      let d := body.take (dataLength dir c)
      match body.drop (dataLength dir c) with
      | [] => .rejected .truncated
      | ck :: rest =>
        if ck = checksum START c d then instrOfPacket dir c d rest else .rejected (.badChecksum ck)

/-! ## Encoding -/

/-- The bytes of an instruction (30 R90, R103: "emit 0x41, the code, each operand as one byte, then the checksum"). -/
def encode (i : Instr) : List Byte := packet i.code i.data

/-! ## The opcode table's numbering -/

/-- Where the table puts byte `k` of a packet, in bytes from bit 0. It numbers bytes 0 and 1 only, "byte 0 in the high
half"; DESIGN CHOICE (log 15): byte k from 2 on is bits 8k+7..8k. -/
def tableLane : Nat → Nat
  | 0 => 1
  | 1 => 0
  | k + 2 => k + 2

/-- Byte `k` of a packet whose bits are `w`. -/
def tableByte (w k : Nat) : Byte := BitVec.ofNat 8 (w >>> (8 * tableLane k))

/-- The packet an `nbits`-bit table word stands for: bits above `nbits` are 0. DESIGN CHOICE (log 15), unsafe only for who
reads it as a received packet: where the word does not reach the CHECKSUM byte, that byte is the one the table's row states
for it ("CK = (par(0x41) + par(CODE) + sum of par(Di)) mod 256"). -/
def packetOfTableWord (nbits w : Nat) : List Byte :=
  let v := w % 2 ^ nbits
  let c := tableByte v 1
  let n := requiredLength c
  let d := (List.range n).map (fun k => tableByte v (k + 2))
  let ck := if 8 * (n + 3) ≤ nbits then tableByte v (n + 2) else checksum (tableByte v 0) c d
  tableByte v 0 :: c :: (d ++ [ck])

/-- The instruction the decoder reads from a word numbered as `spec/opcode_table.json` numbers it. A RESP row's word is a
SETCH's, and reads as one here: packets the block receives are commands (30 R106; log 14). -/
def decodeTableWord (nbits w : Nat) : Option Instr :=
  match decode .toDevice (packetOfTableWord nbits w) with
  | .ok i _ => some i
  | .rejected _ => none

end Sys2Proof
end

