-- ==== Sys2Proof/Machine/State.lean ====
section
/-! DEFINITION. The state of the block (10_state R20), the state of the environment behind its ports (R35 (b)), and the model's
own fields, all plain data; its updates; the state after reset (R40); and the reasons a step can stop. -/

namespace Sys2Proof.Machine

/-! ## The parts of the state -/

/-- One channel (10 R21). -/
structure Channel where
  current         : Byte
  target          : Byte
  fadeSpeed       : Byte
  fadeAccumulator : Byte
deriving DecidableEq, Repr, Inhabited

/-- The BAM generator's registers (10 R26); `pwm[c]` is `pwm_out[c]`. -/
structure Bam where
  plane : BitVec 3
  ocr   : Byte
  pwm   : List Bool
deriving DecidableEq, Repr, Inhabited

/-- `arb.state` (10 R27). `undefinedState` is "a value of `arb.state` other than the two ... an undefined internal state":
no run from reset meets it, and 43 R210 says what happens if it is there (log 10). -/
inductive ArbState where
  | idle
  | processing
  | undefinedState
deriving DecidableEq, Repr, Inhabited

/-- `arb.rr`: 0 DigitalInput, 1 Serial, 2 Network (10 R27). -/
inductive Turn where
  | digitalInput
  | serial
  | network
deriving DecidableEq, Repr, Inhabited

/-- The arbitrator's registers (10 R27). -/
structure Arbitrator where
  state : ArbState
  rr    : Turn
deriving DecidableEq, Repr, Inhabited

/-- `source` of a Command (10 R30); `none` in the inbox is the "mailbox empty" signal. -/
inductive Source where
  | none
  | serial
  | network
  | digitalInput
deriving DecidableEq, Repr, Inhabited

/-- The Command record (10 R30): `data` has 8 entries, of which the first `len` are the command's. -/
structure Command where
  code   : Byte
  data   : List Byte
  len    : Nat
  source : Source
deriving DecidableEq, Repr, Inhabited

/-- `sf.state` (10 R28). -/
inductive SerialState where
  | idle
  | gotStart
  | readingData
  | gotData
deriving DecidableEq, Repr, Inhabited

/-- The serial framer's registers (10 R28). -/
structure SerialFramer where
  state : SerialState
  code  : Byte
  buf   : List Byte
  len   : Nat
  idle  : Nat
deriving DecidableEq, Repr, Inhabited

/-- A byte-addressed storage space (20 R60): (address, byte) cells in the one canonical form `Memory.wf`. -/
abbrev Memory := List Host.Cell

/-- The ring buffer (10 R31); `mem` is its storage, the space `RB`. -/
structure Ring where
  mem   : Memory
  head  : Nat
  tail  : Nat
  empty : Bool
  full  : Bool
deriving DecidableEq, Repr, Inhabited

/-- The digital-input sourcer's registers (10 R32). -/
structure PinSourcer where
  idx  : Nat
  hist : List Bool
deriving DecidableEq, Repr, Inhabited

/-- `halted` (10 R25, 60 R300). -/
inductive Halt where
  | running
  | haltedReboot
  | haltedFatal
deriving DecidableEq, Repr, Inhabited

/-- The ten errors (60 R270), as the names the `log` stream holds. -/
inductive Error where
  | badStart
  | unknownCode
  | badChecksum
  | netLength
  | ringOverflow
  | channelRange
  | serialTimeout
  | netTimeout
  | fatalConfig
  | fatalState
deriving DecidableEq, Repr, Inhabited

/-- The network Transport behind its port (42 R188; log 7). `rx` are the unread bytes, oldest first; `readSizes` how many the
coming reads return, as far as the environment has said; `sent` the `net.write` calls and `closes` the number of `net.close`
calls made (log 18). -/
structure Transport where
  session   : Session
  rx        : List Byte
  readSizes : List Nat
  sent      : List (List Byte)
  closes    : Nat
deriving DecidableEq, Repr, Inhabited

/-- The environment behind the ports (10 R35 (b), R41): pin levels by pin, the Transport, the non-volatile store, and the
`nvs.writeByte` calls made (log 18). -/
structure Environment where
  pins      : List (Nat × Bool)
  net       : Transport
  nvs       : Memory
  nvsWrites : List Host.Cell
deriving DecidableEq, Repr, Inhabited

/-- The model's own fields (logs 1, 3, 8): the coming moves of the agents, the interrupts still to fall inside the present
`Poll`, and how many free values have been taken. -/
structure Schedule where
  events   : List Event
  arrivals : List (List Interrupt)
  draws    : Nat
deriving DecidableEq, Repr, Inhabited

/-! ## The state -/

@[ext]
structure State where
  /-- the parameters of 00 R6; no step writes them (10 R20; log 2) -/
  cfg     : Config
  /-- the channel file (10 R21) -/
  ch      : List Channel
  /-- the BAM generator (10 R26) -/
  bam     : Bam
  /-- the arbitrator (10 R27) -/
  arb     : Arbitrator
  /-- the command mailbox (10 R30) -/
  inbox   : Command
  /-- the response mailbox (10 R30) -/
  outbox  : Command
  /-- the serial framer (10 R28) -/
  sf      : SerialFramer
  /-- the ring buffer (10 R31) -/
  rb      : Ring
  /-- `nf.idle` (10 R29) -/
  nfIdle  : Nat
  /-- the digital-input sourcer (10 R32) -/
  di      : PinSourcer
  /-- `ip_latch` (10 R25) -/
  ipLatch : Bool
  /-- `halted` (10 R25) -/
  halted  : Halt
  /-- `ser_tx`, oldest byte first (10 R33) -/
  serTx   : List Byte
  /-- `log`, oldest event first (10 R33) -/
  log     : List Error
  /-- the environment behind the ports (10 R35 (b)) -/
  env     : Environment
  /-- the model's own fields -/
  sched   : Schedule
deriving DecidableEq, Repr, Inhabited

/-! ## Updates, one per field -/

def State.setCh (s : State) (v : List Channel) : State := { s with ch := v }
def State.setBam (s : State) (v : Bam) : State := { s with bam := v }
def State.setArb (s : State) (v : Arbitrator) : State := { s with arb := v }
def State.setInbox (s : State) (v : Command) : State := { s with inbox := v }
def State.setOutbox (s : State) (v : Command) : State := { s with outbox := v }
def State.setSf (s : State) (v : SerialFramer) : State := { s with sf := v }
def State.setRb (s : State) (v : Ring) : State := { s with rb := v }
def State.setNfIdle (s : State) (v : Nat) : State := { s with nfIdle := v }
def State.setDi (s : State) (v : PinSourcer) : State := { s with di := v }
def State.setIpLatch (s : State) (v : Bool) : State := { s with ipLatch := v }
def State.setHalted (s : State) (v : Halt) : State := { s with halted := v }
def State.setSerTx (s : State) (v : List Byte) : State := { s with serTx := v }
def State.setLog (s : State) (v : List Error) : State := { s with log := v }
def State.setEnv (s : State) (v : Environment) : State := { s with env := v }
def State.setSched (s : State) (v : Schedule) : State := { s with sched := v }

/-! ## Reset (10 R40) -/

/-- A mailbox "created empty at boot". -/
def Command.empty : Command := { code := 0, data := List.replicate MAX_DATA 0, len := 0, source := .none }

/-- Every element of 10 R20 at its value of R40, for any parameters, in any environment. `rb.buf` is `draw(u8)` there; DESIGN
CHOICE (log 4): nothing is listed, and what an unlisted byte reads as is never read. -/
def State.resetIn (c : Config) (env : Environment) (sched : Schedule) : State :=
  { cfg     := c
    ch      := List.replicate c.numChannels { current := 0, target := 0, fadeSpeed := 0, fadeAccumulator := 0 }
    bam     := { plane := 0, ocr := c.ocrReset, pwm := List.replicate c.numChannels false }
    arb     := { state := .idle, rr := .digitalInput }
    inbox   := Command.empty
    outbox  := Command.empty
    sf      := { state := .idle, code := 0, buf := List.replicate MAX_DATA 0, len := 0, idle := 0 }
    rb      := { mem := [], head := 0, tail := 0, empty := true, full := false }
    nfIdle  := 0
    di      := { idx := 0, hist := c.histReset }
    ipLatch := false
    halted  := .running
    serTx   := []
    log     := []
    env     := env
    sched   := sched }

/-- The environment before any move of its own: no pin level set, the Transport "listening and silent" (95 section 0), nothing
in the store. DESIGN CHOICE (logs 5, 6, 7). -/
def Environment.initial : Environment :=
  { pins := [], net := { session := .listening, rx := [], readSizes := [], sent := [], closes := 0 }, nvs := [], nvsWrites := [] }

/-- The machine right after reset, with the reference parameters (log 2) and no move listed. -/
def State.reset : State :=
  State.resetIn Config.reference Environment.initial { events := [], arrivals := [], draws := 0 }

/-! ## Why a step can stop -/

/-- No instruction's meaning faults. -/
inductive Fault where
  /-- Raised by `step` on a value of the type `State` that is no value of the tuple of 10 R20 (a channel file without
  NUM_CHANNELS entries, an index out of its range): no run from a state of the block meets it. Safe (log 11). -/
  | notAState
deriving DecidableEq, Repr

/-- Why a step has no meaning. -/
inductive Refusal where
  /-- Raised by an arm of `exec` whose instruction has no meaning yet; there is none. Safe. -/
  | notModelled (mnemonic : String)
  /-- Raised by `step` on parameters outside the constraints of 00 R6 (93 U18: `refuse`). Safe (log 12). -/
  | badParameters
  /-- Raised by `step` on a pin binding that is not well formed (42 R196, 93 U11: `refuse`). Safe (log 12). -/
  | badBinding
deriving DecidableEq, Repr

end Sys2Proof.Machine
end

