-- ==== Sys2Proof/Machine/Ops.lean ====
section
/-! DEFINITION. The named operations over storage, mailboxes, channels and errors that every step is written with: `MemRead` and
`MemWrite` (00 R13, 20 R60 to R62), `raise` (60 R270), the Command record's copy (20 R63), a channel's levels (20 R78). -/

namespace Sys2Proof.Machine

/-- What a step, a meaning or a part of one answers. -/
abbrev Result := Host.Outcome State Fault Refusal

/-- Go on with the next state; a fault or a refusal ends there. -/
def andThen {σ τ : Type} (o : Host.Outcome σ Fault Refusal) (f : σ → Host.Outcome τ Fault Refusal) :
    Host.Outcome τ Fault Refusal :=
  match o with
  | .next s => f s
  | .fault r => .fault r
  | .refused r => .refused r

/-! ## Byte-addressed storage (20 R60, R61, R62) -/

/-- What a byte that nothing has written reads as. DESIGN CHOICE, unsafe (logs 4, 5): the spec gives none (93 U8, U23). -/
def Memory.unwritten : Byte := 0x00

/-- `MemRead(space, a, 1)`. -/
def Memory.read : Memory → Nat → Byte
  | [], _ => Memory.unwritten
  | (k, b) :: m, a => if k = a then b else Memory.read m a

/-- Take the cell of `a` out of a rising list. -/
def Memory.erase : Memory → Nat → Memory
  | [], _ => []
  | (k, b) :: m, a => if k = a then m else if a < k then (k, b) :: m else (k, b) :: Memory.erase m a

/-- Put the cell of `a` into a rising list. -/
def Memory.insert : Memory → Nat → Byte → Memory
  | [], a, v => [(a, v)]
  | (k, b) :: m, a, v =>
    if k = a then (a, v) :: m else if a < k then (a, v) :: (k, b) :: m else (k, b) :: Memory.insert m a v

/-- `MemWrite(space, a, 1, v)`, keeping the canonical form. -/
def Memory.write (m : Memory) (a : Nat) (v : Byte) : Memory :=
  if v = Memory.unwritten then m.erase a else m.insert a v

/-- Every address is above `lo`, where there is one. -/
def Memory.above (lo : Option Nat) (k : Nat) : Bool :=
  match lo with
  | none => true
  | some l => decide (l < k)

/-- Addresses strictly rising from above `lo`, no cell that an unlisted address would read as. -/
def Memory.wfFrom : Option Nat → Memory → Bool
  | _, [] => true
  | lo, (k, b) :: m => Memory.above lo k && b != Memory.unwritten && Memory.wfFrom (some k) m

/-- The canonical form: equal storage is equal data. -/
def Memory.wf (m : Memory) : Bool := Memory.wfFrom none m

/-! ## Errors: `raise E` has exactly the effect of 60 R270's column "what raising does"; it moves no control (00 R13) -/

/-- Class (d) of R270: the two errors that halt. -/
def Error.fatal : Error → Bool
  | .fatalConfig | .fatalState => true
  | .badStart | .unknownCode | .badChecksum | .netLength | .ringOverflow | .channelRange | .serialTimeout | .netTimeout => false

/-- `RingOverflow` is the one error that is not logged (60 R274). -/
def Error.logged : Error → Bool
  | .ringOverflow => false
  | .badStart | .unknownCode | .badChecksum | .netLength | .channelRange | .serialTimeout | .netTimeout
  | .fatalConfig | .fatalState => true

/-- `raise E`: the log event, and the halt of a fatal error (60 R270, R300). The offending byte or length goes nowhere in
the block (60 R271); the stream holds names (log 17). -/
def raise (e : Error) (s : State) : State :=
  let t := if e.logged then s.setLog (s.log ++ [e]) else s
  if e.fatal then t.setHalted .haltedFatal else t

/-! ## The Command record (10 R30, 20 R63) -/

/-- Write `d` over the first entries of a data array and leave the rest. -/
def overlay (d old : List Byte) : List Byte := d ++ old.drop d.length

/-- `code`, the first `len` data bytes and `len`; the bytes beyond stay (43 R215) and so does `source`. -/
def Command.fill (c : Command) (code : Byte) (d : List Byte) : Command :=
  { c with code := code, data := overlay d c.data, len := d.length }

/-- The data bytes the record holds. -/
def Command.payload (c : Command) : List Byte := c.data.take c.len

/-- A sourcer's report of a complete packet: all fields of the inbox in one step (41 R161, R167; 42 R184, R190). -/
def fillInbox (code : Byte) (d : List Byte) (src : Source) (s : State) : State :=
  s.setInbox { s.inbox.fill code d with source := src }

/-- `Respond(status)` (40 R123): the outbox filled completely with the one kind of response. That it answers true ("a response
must be sent") is `Instr.answers`. -/
def respond (status : Half) (s : State) : State :=
  s.setOutbox (s.outbox.fill RESP_CODE [hiByte status, loByte status])

/-! ## The channel file (10 R21, R22) -/

/-- One atomic unit (20 R78 (c), (d)): `current` and `target` of channel `c` become `v`; the other two fields stay. -/
def setLevel (c : Nat) (v : Byte) (s : State) : State :=
  s.setCh (s.ch.modify c fun x => { x with current := v, target := v })

/-- The FADE handler's write (40 R128): `target` and `fadeSpeed` of channel `c`. -/
def setFade (c : Nat) (target speed : Byte) (s : State) : State :=
  s.setCh (s.ch.modify c fun x => { x with target := target, fadeSpeed := speed })

/-! ## The non-volatile store (20 R62) -/

/-- `nvs.writeByte(a, v)`: "makes a later read of a return v". The call is recorded (log 18). -/
def nvsWriteByte (a : Nat) (v : Byte) (s : State) : State :=
  s.setEnv { s.env with nvs := s.env.nvs.write a v, nvsWrites := s.env.nvsWrites ++ [(a, v)] }

/-- `nvs.readBlock(a, 4)`: "the four bytes at a, a+1, a+2, a+3 in that order with no side effect". -/
def nvsReadBlock (a : Nat) (s : State) : List Byte :=
  [s.env.nvs.read a, s.env.nvs.read (a + 1), s.env.nvs.read (a + 2), s.env.nvs.read (a + 3)]

/-! ## Free values (00 R13) -/

/-- `n` free values have been taken. -/
def tookDraws (n : Nat) (s : State) : State := s.setSched { s.sched with draws := s.sched.draws + n }

/-! ## Pin levels (93 U22; log 6) -/

/-- Set a pin's level, keeping the pins rising. -/
def setPin : List (Nat × Bool) → Nat → Bool → List (Nat × Bool)
  | [], p, v => [(p, v)]
  | (k, b) :: m, p, v =>
    if k = p then (p, v) :: m else if p < k then (p, v) :: (k, b) :: m else (k, b) :: setPin m p v

/-- `DigitalPin(p).read()`: the level the environment set, or a free one; with the state after the read. -/
def readPin (p : Nat) (s : State) : Bool × State :=
  match s.env.pins.lookup p with
  | some b => (b, s)
  | none => (Config.freeLevel s.sched.draws, tookDraws 1 s)

end Sys2Proof.Machine
end

