-- ==== Sys2Proof/Machine/Bam.lean ====
section
/-! DEFINITION. The bit-angle-modulation generator (45 R246, R247): one firing of the compare-match interrupt. -/

namespace Sys2Proof.Machine

/-- `THRESH[p] = 2^(p+1) - 1` (00 R7, 45 R246). -/
def threshold (p : BitVec 3) : Byte := BitVec.ofNat 8 (2 ^ (p.toNat + 1) - 1)

/-- `ch[c].current[p]`: bit p of the level (45 R250). -/
def levelBit (p : BitVec 3) (x : Channel) : Bool := x.current.getLsbD p.toNat

/-- `BamTick` (45 R247): pins, compare register and plane index, all three from the plane on entry. -/
def bamTick (s : State) : State :=
  s.setBam { plane := s.bam.plane + 1, ocr := threshold s.bam.plane, pwm := s.ch.map (levelBit s.bam.plane) }

end Sys2Proof.Machine
end

