-- ==== Sys2Proof/Machine/Flags.lean ====
section
/-! DEFINITION. The block's flags (10 R25: it has no condition codes): `rb.empty` and `rb.full`, `ip_latch`, `halted`. Each is
computed here; the operations that write them are in Ring, System and Ops. -/

namespace Sys2Proof.Machine

/-- `rb.full` after a push that was not rejected (41 R151): "if rb.head = rb.tail: rb.full <- true". -/
def fullAfterPush (r : Ring) (head' : Nat) : Bool := if head' = r.tail then true else r.full

/-- `rb.empty` after a pop of a ring that was not empty (41 R152): "if rb.tail = rb.head: rb.empty <- true". -/
def emptyAfterPop (r : Ring) (tail' : Nat) : Bool := if tail' = r.head then true else r.empty

/-- `ip_latch` after a SETIP that found it clear: set exactly when a byte differed (40 R130). -/
def latchAfterCommit (stored operands : List Byte) : Bool := stored != operands

/-- `halted = Running`: the main agent takes steps (43 R210). -/
def State.isRunning (s : State) : Bool := s.halted == .running

end Sys2Proof.Machine
end

