-- ==== Sys2Proof/Machine/Ring.lean ====
section
/-! DEFINITION. The ring buffer's four operations and the byte-received interrupt (41 R150 to R154). `head` is the push index,
`tail` the pop index; every index is reduced mod RB_CAP before use (20 R61). -/

namespace Sys2Proof.Machine

/-- `rb_push` (R151): false iff full, and then nothing changes. -/
def Ring.push (cap : Nat) (r : Ring) (b : Byte) : Bool × Ring :=
  if r.full then (false, r)
  else
    let head' := (r.head + 1) % cap
    (true, { r with mem := r.mem.write (r.head % cap) b, head := head', empty := false, full := fullAfterPush r head' })

/-- `rb_pop` (R152): the oldest byte, or 0x00 with nothing changed. -/
def Ring.pop (cap : Nat) (r : Ring) : Byte × Ring :=
  if r.empty then (0x00, r)
  else
    let tail' := (r.tail + 1) % cap
    (r.mem.read (r.tail % cap), { r with tail := tail', full := false, empty := emptyAfterPop r tail' })

/-- `rb_available` (R153): `RB_CAP if rb.full else (rb.head - rb.tail) mod RB_CAP`. -/
def Ring.available (cap : Nat) (r : Ring) : Nat :=
  if r.full then cap else (r.head + (cap - r.tail % cap)) % cap

/-- `rb_clear` (R154): no rule calls it. Stored bytes stay. -/
def Ring.clear (r : Ring) : Ring := { r with head := 0, tail := 0, empty := true, full := false }

/-- The bytes held, oldest first (10 R31): `rb.buf[(rb.tail + j) mod RB_CAP]` for j in 0..count-1. -/
def Ring.contents (cap : Nat) (r : Ring) : List Byte :=
  (List.range (r.available cap)).map fun j => r.mem.read ((r.tail + j) % cap)

/-- `RxByte(b)` (R150): push, and drop the byte silently where the ring is full. -/
def rxByte (b : Byte) (s : State) : State :=
  match s.rb.push s.cfg.rbCap b with
  | (true, r) => s.setRb r
  | (false, _) => raise .ringOverflow s

end Sys2Proof.Machine
end

