-- ==== Sys2Proof/Machine/Interrupts.lean ====
section
/-! DEFINITION. Taking an interrupt, one shared operation (60 R285 to R289): it saves nothing, changes no mode, runs its handler
as one atomic step and is never lost; and where interrupts fall inside a `Poll` (20 R78). -/

namespace Sys2Proof.Machine

/-- Entry, handler and return in one step (60 R289). -/
def takeInterrupt : Interrupt → State → State
  | .rxByte b, s => rxByte b s
  | .bamTick, s => bamTick s

/-- Several interrupts, one after the other (20 R77). -/
def takeInterrupts (is : List Interrupt) (s : State) : State := is.foldl (fun t i => takeInterrupt i t) s

/-- A boundary between two atomic units of the main context (20 R78): the interrupts that fall here run now (log 3). -/
def boundary (s : State) : State :=
  match s.sched.arrivals with
  | [] => s
  | here :: later => takeInterrupts here (s.setSched { s.sched with arrivals := later })

/-- The interrupts listed for boundaries that the `Poll` did not reach run at its end: an event is never lost (60 R287). -/
def flushArrivals (s : State) : State :=
  takeInterrupts s.sched.arrivals.flatten (s.setSched { s.sched with arrivals := [] })

end Sys2Proof.Machine
end

