-- ==== Sys2Proof/Machine/Operands.lean ====
section
/-! DEFINITION. How a handler gets its operands (40 R124, 30 R96) and which of them name a channel (40 R126, R129). Every operand
form there is: one unsigned data byte of the inbox. -/

namespace Sys2Proof.Machine

/-- Operand `k`: `inbox.data[k]`; beyond `inbox.len` (a short network Command, 93 U3) a free value, one for each missing
operand of the command (log 8). -/
def operand (s : State) (k : Nat) : Byte :=
  if k < s.inbox.len then s.inbox.data.getD k 0 else Config.freeByte (s.sched.draws + (k - s.inbox.len))

/-- How many operands nobody supplied. -/
def missingOperands (s : State) : Nat := requiredLength s.inbox.code - s.inbox.len

/-- The command in the inbox, with its operands; none for a code that is no command's (40 R120, R121). -/
def inboxInstr (s : State) : Option Instr :=
  instrOfCommand s.inbox.code (operand s 0) (operand s 1) (operand s 2) (operand s 3)

/-- `channel < NUM_CHANNELS` (40 R126). -/
def namesChannel (s : State) (c : Byte) : Bool := decide (c.toNat < s.cfg.numChannels)

/-- Not `groupStart > NUM_CHANNELS - 3`, an integer compare (40 R129). -/
def namesGroup (s : State) (g : Byte) : Bool := decide (g.toNat + 3 ≤ s.cfg.numChannels)

end Sys2Proof.Machine
end

