-- ==== Sys2Proof/Machine/Levels.lean ====
section
/-! DEFINITION. The commands on the channel file: SETCH, FADE, SETGRP (40 R126 to R129). -/

namespace Sys2Proof.Machine

/-- An index that names no channel: logged, answered with ERROR, nothing mutated (60 R275). -/
def rejectRange (s : State) : State := respond STATUS_ERROR (raise .channelRange s)

/-- `SETCH channel, value` (40 R127). -/
def execSetch (channel value : Byte) (s : State) : Result :=
  .next (if namesChannel s channel then respond STATUS_OK (setLevel channel.toNat value s) else rejectRange s)

/-- `FADE channel, target, speed` (40 R128). -/
def execFade (channel target speed : Byte) (s : State) : Result :=
  .next (if namesChannel s channel then respond STATUS_OK (setFade channel.toNat target speed s) else rejectRange s)

/-- The three writes of SETGRP (40 R129), each its own atomic unit, ascending: an interrupt may fall between two (20 R78 (d)). -/
def setGroup (g : Nat) (r1 r2 r3 : Byte) (s : State) : State :=
  setLevel (g + 2) r3 (boundary (setLevel (g + 1) r2 (boundary (setLevel g r1 s))))

/-- `SETGRP groupStart, r, g, b` (40 R129). -/
def execSetgrp (groupStart r g b : Byte) (s : State) : Result :=
  .next (if namesGroup s groupStart then respond STATUS_OK (setGroup groupStart.toNat r g b s) else rejectRange s)

end Sys2Proof.Machine
end

