-- ==== Sys2Proof/Machine/Serial.lean ====
section
/-! DEFINITION. The serial packet framer and its send path (41 R157 to R168). -/

namespace Sys2Proof.Machine

/-- `sf_reset` (R162): length and state; code, buffer and ring stay. -/
def sfReset (s : State) : State := s.setSf { s.sf with len := 0, state := .idle }

/-- State `Idle`, byte b (R158). -/
def sfIdleByte (b : Byte) (s : State) : State :=
  if b = START then s.setSf { s.sf with state := .gotStart } else sfReset (raise .badStart s)

/-- State `GotStart`, byte b (R159). -/
def sfCodeByte (b : Byte) (s : State) : State :=
  if hasCommand b then
    s.setSf { s.sf with code := b, len := 0, state := if requiredLength b > 0 then .readingData else .gotData }
  else sfReset (raise .unknownCode s)

/-- State `ReadingData`, byte b (R160). -/
def sfDataByte (b : Byte) (s : State) : State :=
  s.setSf { s.sf with
    buf := s.sf.buf.set s.sf.len b
    len := s.sf.len + 1
    state := if s.sf.len + 1 = requiredLength s.sf.code then .gotData else s.sf.state }

/-- State `GotData`, byte b (R161): the inbox is filled in one step (R167) or nothing is. -/
def sfChecksumByte (b : Byte) (s : State) : State :=
  let d := s.sf.buf.take s.sf.len
  if b = checksum START s.sf.code d then sfReset (fillInbox s.sf.code d .serial s)
  else sfReset (raise .badChecksum s)

/-- One byte, judged by the state (R157, R164). -/
def sfByte (b : Byte) (s : State) : State :=
  match s.sf.state with
  | .idle => sfIdleByte b s
  | .gotStart => sfCodeByte b s
  | .readingData => sfDataByte b s
  | .gotData => sfChecksumByte b s

/-- A poll that found no byte (R157, R163). -/
def sfNoByte (s : State) : State :=
  let n := s.sf.idle + 1
  if n = s.cfg.serTimeout then
    let t := if s.sf.state = .idle then s else sfReset (raise .serialTimeout s)
    t.setSf { t.sf with idle := 0 }
  else s.setSf { s.sf with idle := n }

/-- `SerialPoll` (R157): `rb_available` and `rb_pop` are two atomic units, and an interrupt may fall between (20 R78 (a)). -/
def serialPoll (s : State) : State :=
  let n := s.rb.available s.cfg.rbCap
  let t := boundary s
  if n = 0 then sfNoByte t
  else
    let p := t.rb.pop t.cfg.rbCap
    let u := t.setRb p.2
    sfByte p.1 (u.setSf { u.sf with idle := 0 })

/-- The bytes of the outbox as a packet (41 R168, 42 R187). -/
def outboxPacket (s : State) : List Byte := packet s.outbox.code s.outbox.payload

/-- `SerialSend` (R168). -/
def serialSend (s : State) : State := s.setSerTx (s.serTx ++ outboxPacket s)

end Sys2Proof.Machine
end

