-- ==== Sys2Proof/Machine/Datagram.lean ====
section
/-! DEFINITION. The datagram framer over the network Transport, and its send path (42 R180 to R188). -/

namespace Sys2Proof.Machine

/-! ## The Transport's calls (42 R188; log 7) -/

/-- `net.close()`: ends the session and discards unread bytes. -/
def netClose (s : State) : State :=
  s.setEnv { s.env with net := { s.env.net with session := .closed, rx := [], closes := s.env.net.closes + 1 } }

/-- `net.write(buf, len)`; the returned count is ignored (42 R187). -/
def netWrite (buf : List Byte) (s : State) : State :=
  s.setEnv { s.env with net := { s.env.net with sent := s.env.net.sent ++ [buf] } }

/-- A size brought into `1 .. min(available, MAX_PACKET)` (42 R182). -/
def clampRead (s : State) (k : Nat) : Nat := max 1 (min k (min s.env.net.rx.length s.cfg.maxPacket))

/-- How many bytes the next read returns: what the environment said, else a free value (42 R182, 93 U5). -/
def readSize (s : State) : Nat :=
  match s.env.net.readSizes with
  | k :: _ => clampRead s k
  | [] => clampRead s (1 + Config.freeReadSize s.sched.draws % min s.env.net.rx.length s.cfg.maxPacket)

/-- `net.read(MAX_PACKET)`: the first `readSize` unread bytes, with the state after the read. -/
def netRead (s : State) : List Byte × State :=
  let n := readSize s
  let t := if s.env.net.readSizes.isEmpty then tookDraws 1 s else s
  (s.env.net.rx.take n,
   t.setEnv { t.env with net := { t.env.net with rx := s.env.net.rx.drop n, readSizes := s.env.net.readSizes.drop 1 } })

/-! ## Validation (42 R183): the tests in order, the first that fails names the error -/

/-- The data bytes of a read: all but START, CODE and the last byte. -/
def datagramData (buf : List Byte) : List Byte := (buf.drop 2).dropLast

/-- The error of the first failing test, or none. -/
def datagramError (buf : List Byte) : Option Error :=
  if buf.length < 3 then some .netLength
  else if buf.getD 0 0 ≠ START then some .badStart
  else if hasCommand (buf.getD 1 0) = false then some .unknownCode
  else if buf.length - 3 > requiredLength (buf.getD 1 0) then some .netLength
  else if buf.getD (buf.length - 1) 0 ≠ checksum (buf.getD 0 0) (buf.getD 1 0) (datagramData buf) then some .badChecksum
  else none

/-- What a read leads to: acceptance (R184) or an error that closes the session (R185). -/
def netPacket (buf : List Byte) (s : State) : State :=
  match datagramError buf with
  | none => fillInbox (buf.getD 1 0) (datagramData buf) .network s
  | some e => (netClose (raise e s)).setNfIdle 0

/-- A poll that found nothing to read (R181). -/
def netNoData (s : State) : State :=
  let n := min (s.nfIdle + 1) (s.cfg.netTimeout + 1)
  if n > s.cfg.netTimeout ∧ s.env.net.session ≠ .listening then (netClose (raise .netTimeout s)).setNfIdle 0
  else s.setNfIdle n

/-- `NetPoll` (R180). -/
def netPoll (s : State) : State :=
  if s.env.net.rx.length = 0 then netNoData s
  else
    let p := netRead s
    netPacket p.1 (p.2.setNfIdle 0)

/-- `NetSend` (R187): the outbox's packet in one write. -/
def netSend (s : State) : State := netWrite (outboxPacket s) s

end Sys2Proof.Machine
end

