-- ==== Sys2Proof/Machine/Response.lean ====
section
/-! DEFINITION. The response (30 R92): routing what the outbox holds to the transport the command came from (43 R214), and the
meaning of the packet RESP, which the block sends and never receives. -/

namespace Sys2Proof.Machine

/-- `Route` (43 R214): a pin's answer is dropped, not logged. -/
def route (s : State) : State :=
  match s.inbox.source with
  | .serial => serialSend s
  | .network => netSend s
  | .digitalInput => s
  | .none => raise .fatalState s

/-- `RESP status`: what the block does with a response packet is send it (30 R92: "device to peer"). The outbox is filled
(40 R123) and routed (43 R214). Fed back as input the same bytes are a SETCH (30 R106), and then run as one (log 13). -/
def execResp (status : Half) (s : State) : Result := .next (route (respond status s))

end Sys2Proof.Machine
end

