-- ==== Sys2Proof/Machine/System.lean ====
section
/-! DEFINITION. The commands that touch no channel: TEST, SETIP, REBOOT (40 R125, R130, R131). -/

namespace Sys2Proof.Machine

/-- `TEST` (40 R125). -/
def execTest (s : State) : Result := .next (respond STATUS_OK s)

/-- The byte at `a` becomes `new`, written only where it differs (40 R130). -/
def commitByte (a : Nat) (old new : Byte) (s : State) : State := if old ≠ new then nvsWriteByte a new s else s

/-- The differing bytes, in ascending order; the operands past the stored block are none. -/
def commitBytes (a : Nat) : List Byte → List Byte → State → State
  | old :: olds, new :: news, s => commitBytes (a + 1) olds news (commitByte a old new s)
  | _, _, s => s

/-- `SETIP ip0, ip1, ip2, ip3` (40 R130). -/
def execSetip (ip0 ip1 ip2 ip3 : Byte) (s : State) : Result :=
  let stored := nvsReadBlock s.cfg.nvsIpAddr s
  let ip := [ip0, ip1, ip2, ip3]
  .next (
    if s.ipLatch then respond STATUS_ERROR s
    else if latchAfterCommit stored ip then
      respond STATUS_OK ((commitBytes s.cfg.nvsIpAddr stored ip s).setIpLatch true)
    else respond STATUS_ERROR s)

/-- `REBOOT` (40 R131): the main agent takes no further step; no response is built. -/
def execReboot (s : State) : Result := .next (s.setHalted .haltedReboot)

end Sys2Proof.Machine
end

