-- ==== Sys2Proof/Machine/Dispatch.lean ====
section
/-! DEFINITION. One meaning per instruction: the handler column of the command descriptor table (30 R98, 40 R120). -/

namespace Sys2Proof.Machine

def exec (i : Instr) (s : State) : Host.Outcome State Fault Refusal :=
  match i with
  | .test => Sys2Proof.Machine.execTest s
  | .setch channel value => Sys2Proof.Machine.execSetch channel value s
  | .fade channel target speed => Sys2Proof.Machine.execFade channel target speed s
  | .setgrp groupStart r g b => Sys2Proof.Machine.execSetgrp groupStart r g b s
  | .setip ip0 ip1 ip2 ip3 => Sys2Proof.Machine.execSetip ip0 ip1 ip2 ip3 s
  | .reboot => Sys2Proof.Machine.execReboot s
  | .resp status => Sys2Proof.Machine.execResp status s

end Sys2Proof.Machine
end

