-- ==== Sys2Proof/Machine/Fade.lean ====
section
/-! DEFINITION. The fade controller (44 R231, R232). -/

namespace Sys2Proof.Machine

/-- The saturating add: `min(fadeAccumulator + fadeSpeed, 255)`, on integers (R232). -/
def fadeSum (x : Channel) : Nat := min (x.fadeAccumulator.toNat + x.fadeSpeed.toNat) 255

/-- One unit toward the target (R232), unsigned compare (R233). -/
def stepToward (current target : Byte) : Byte := if current.toNat < target.toNat then current + 1 else current - 1

/-- `FadeChannel` on one channel (R232): nothing at the target; else the add, and at saturation one step and a cleared
accumulator. -/
def Channel.fade (x : Channel) : Channel :=
  if x.current = x.target then x
  else if fadeSum x = 255 then { x with current := stepToward x.current x.target, fadeAccumulator := 0 }
  else { x with fadeAccumulator := BitVec.ofNat 8 (fadeSum x) }

/-- `FadeChannel(c)`, one atomic unit (20 R78 (b)). -/
def fadeChannel (c : Nat) (s : State) : State := s.setCh (s.ch.modify c Channel.fade)

/-- `FadeStep` (R231): every channel, ascending, an interrupt boundary after each. -/
def fadeStep (s : State) : State :=
  (List.range s.cfg.numChannels).foldl (fun t c => boundary (fadeChannel c t)) s

end Sys2Proof.Machine
end

