-- ==== Sys2Proof/Machine/Pins.lean ====
section
/-! DEFINITION. The digital-input sourcer (42 R190 to R197). -/

namespace Sys2Proof.Machine

/-- `Trigger(mode, prev, cur)` (R191). -/
def trigger : TriggerMode → Bool → Bool → Bool
  | .rising, prev, cur => !prev && cur
  | .falling, prev, cur => prev && !cur
  | .change, prev, cur => prev != cur
  | .levelHigh, _, cur => cur
  | .levelLow, _, cur => !cur

/-- `DiPoll` with binding `b` selected (R190): the index advances, the history is updated "regardless of trigger", and a
trigger copies the pre-built command, which no framer checks (30 R105), into the inbox. -/
def samplePin (b : Binding) (s : State) : State :=
  let k := s.di.idx
  let r := readPin b.pin s
  let t := r.2.setDi { idx := (k + 1) % s.cfg.bind.length, hist := s.di.hist.set k r.1 }
  if trigger b.mode (s.di.hist.getD k false) r.1 then fillInbox b.code b.data .digitalInput t else t

/-- `DiPoll` (R190); with no bindings it does nothing (R197). -/
def diPoll (s : State) : State :=
  match s.cfg.bind[s.di.idx]? with
  | some b => samplePin b s
  | none => s

end Sys2Proof.Machine
end

