-- ==== Sys2Proof/Machine/Arbitrator.lean ====
section
/-! DEFINITION. Dispatch (40 R120 to R122), the two-state arbitrator (43 R211, R212) and the main loop's step (43 R210). -/

namespace Sys2Proof.Machine

/-! ## Dispatch -/

/-- What dispatch answers with the state: whether "a response is in `outbox` and must be sent" (40 R120). -/
structure Dispatched where
  state : State
  due   : Bool
deriving DecidableEq, Repr

/-- A handler's own answer: every one answers but REBOOT's, which "signals 'no response'" (40 R123, R131). -/
def answers : Instr → Bool
  | .test | .setch _ _ | .fade _ _ _ | .setgrp _ _ _ _ | .setip _ _ _ _ | .resp _ => true
  | .reboot => false

/-- `Dispatch` (40 R120): the wiring check comes first (R122), then the lookup (R121), then the handler. -/
def dispatch (s : State) : Host.Outcome Dispatched Fault Refusal :=
  if s.cfg.mailboxWired = false then .next ⟨raise .fatalConfig s, false⟩
  else
    match inboxInstr s with
    | none => .next ⟨s, false⟩
    | some i => andThen (exec i (tookDraws (missingOperands s) s)) fun t => .next ⟨t, answers i⟩

/-! ## The arbitrator -/

/-- The order of the round robin (43 R211). -/
def Turn.next : Turn → Turn
  | .digitalInput => .serial
  | .serial => .network
  | .network => .digitalInput

/-- The sourcer of a turn (43 R211). -/
def pollSourcer : Turn → State → State
  | .digitalInput, s => diPoll s
  | .serial, s => serialPoll s
  | .network, s => netPoll s

/-- State `Idle` (43 R211): one sourcer; the index selects, then advances, whatever the sourcer does. -/
def arbIdle (s : State) : State :=
  let t := pollSourcer s.arb.rr (s.setArb { s.arb with rr := s.arb.rr.next })
  if t.inbox.source ≠ .none then t.setArb { t.arb with state := .processing } else t

/-- "clear both mailboxes (inbox source→None, outbox length→0) and return to `Idle`" (43 R212, R215). -/
def clearMailboxes (s : State) : State :=
  let t := s.setInbox { s.inbox with source := .none }
  let u := t.setOutbox { t.outbox with len := 0 }
  u.setArb { u.arb with state := .idle }

/-- State `Processing` (43 R212). A halt ends the branch where it stands: REBOOT and `FatalConfig` "do not return", and a
halted main context takes no further action (60 R300; log 10 for `FatalState` inside `Route`). -/
def arbProcessing (s : State) : Result :=
  andThen (dispatch s) fun d =>
    if d.state.isRunning then
      let t := if d.due then route d.state else d.state
      .next (if t.isRunning then clearMailboxes t else t)
    else .next d.state

/-- `ArbStep` (43 R210). -/
def arbStep (s : State) : Result :=
  match s.arb.state with
  | .idle => .next (arbIdle s)
  | .processing => arbProcessing s
  | .undefinedState => .next (raise .fatalState s)

/-! ## The main loop's step -/

/-- `Poll` (43 R210), with an interrupt boundary between the arbitrator and the fade controller. -/
def pollBody (s : State) : Result :=
  if s.isRunning then
    andThen (arbStep s) fun t => .next (if t.isRunning then fadeStep (boundary t) else t)
  else .next s

/-- One `Poll` into which `arrivals` fall: those of boundaries it does not reach run at its end (60 R287; log 3). -/
def poll (arrivals : List (List Interrupt)) (s : State) : Result :=
  andThen (pollBody (s.setSched { s.sched with arrivals := arrivals })) fun t => .next (flushArrivals t)

end Sys2Proof.Machine
end

