-- ==== Sys2Proof/Machine/Boot.lean ====
section
/-! DEFINITION. What must hold before a step has a meaning: the constraints on the parameters (00 R6) and on the pin bindings
(42 R196), and that a value of the type State is a value of the tuple of 10 R20. -/

namespace Sys2Proof.Machine

/-- The constraints of 00 R6's table; `HIST_RESET` has one bit per binding. `MAILBOX_WIRED` false is a meaningful boot
(40 R122). -/
def parametersOk (c : Config) : Bool :=
  decide (3 ≤ c.numChannels) && decide (c.numChannels ≤ 255) && decide (1 ≤ c.rbCap) && decide (1 ≤ c.serTimeout) &&
  decide (7 ≤ c.maxPacket) && decide (c.bind.length ≤ c.maxBindings) && c.histReset.length == c.bind.length

/-- 42 R196: at most 8 data bytes, and the required length for a known code; an unknown code is allowed. -/
def bindingOk (b : Binding) : Bool :=
  decide (b.data.length ≤ MAX_DATA) && (!hasCommand b.code || b.data.length == requiredLength b.code)

def bindingsOk (c : Config) : Bool := c.bind.all bindingOk

/-- A mailbox's record has its eight bytes and a length of 0..8 (10 R30). -/
def commandOk (c : Command) : Bool := c.data.length == MAX_DATA && decide (c.len ≤ MAX_DATA)

/-- The types and ranges of 10 R20's table, the canonical form of both storage spaces, and no interrupt left over from an
earlier `Poll` (log 11). -/
def State.shape (s : State) : Bool :=
  s.ch.length == s.cfg.numChannels && s.bam.pwm.length == s.cfg.numChannels &&
  commandOk s.inbox && commandOk s.outbox &&
  s.sf.buf.length == MAX_DATA && decide (s.sf.len ≤ MAX_DATA) && decide (s.sf.idle ≤ s.cfg.serTimeout) &&
  decide (s.rb.head < s.cfg.rbCap) && decide (s.rb.tail < s.cfg.rbCap) && s.rb.mem.wf &&
  decide (s.nfIdle ≤ s.cfg.netTimeout + 1) &&
  decide (s.di.idx < max s.cfg.bind.length 1) && s.di.hist.length == s.cfg.bind.length &&
  s.env.nvs.wf && s.sched.arrivals.isEmpty

end Sys2Proof.Machine
end

