-- ==== Sys2Proof/Machine/Events.lean ====
section
/-! DEFINITION. One move of one agent (00 R8), and how a host's word is placed so that the very next move runs it. -/

namespace Sys2Proof.Machine

/-- `Reset` (70 R310): every element of 10 R20 at its value of R40; the environment and the parameters stay (10 R41, R20). -/
def resetBlock (s : State) : State := State.resetIn s.cfg s.env { s.sched with arrivals := [] }

/-- The move of one agent. DESIGN CHOICE, unsafe (log 7): a new session (`netSession`) leaves the unread bytes and the named read
sizes as they are; 42 R188 is silent on it. -/
def runEvent (e : Event) (s : State) : Result :=
  match e with
  | .interrupt i => .next (takeInterrupt i s)
  | .poll arrivals => poll arrivals s
  | .reset => .next (resetBlock s)
  | .pin p level => .next (s.setEnv { s.env with pins := setPin s.env.pins p level })
  | .netData bytes => .next (s.setEnv { s.env with net := { s.env.net with rx := s.env.net.rx ++ bytes } })
  | .netReadSize n => .next (s.setEnv { s.env with net := { s.env.net with readSizes := s.env.net.readSizes ++ [n] } })
  | .netSession x => .next (s.setEnv { s.env with net := { s.env.net with session := x } })

/-- The next move: the first one listed, else a free one (00 R8: any interleaving; log 1). -/
def nextEvent (s : State) : Event × State :=
  match s.sched.events with
  | e :: later => (e, s.setSched { s.sched with events := later })
  | [] => (Config.freeEvent s.sched.draws, tookDraws 1 s)

/-- One step on a machine whose parameters and state are well formed; the others have no meaning (93 U11, U18; logs 11, 12). -/
def stepChecked (s : State) : Result :=
  if parametersOk s.cfg = false then .refused .badParameters
  else if bindingsOk s.cfg = false then .refused .badBinding
  else if s.shape = false then .fault .notAState
  else runEvent (nextEvent s).1 (nextEvent s).2

/-- A `Poll` with nothing falling inside it comes next. -/
def pollNext (s : State) : State := s.setSched { s.sched with events := .poll [] :: s.sched.events }

/-- A command framed and waiting: its packet complete in the inbox from the serial link, the arbitrator in `Processing`, and a
`Poll` next (log 16). -/
def placeCommand (i : Instr) (s : State) : State :=
  pollNext (((fillInbox i.code i.data .serial s).setArb { s.arb with state := .processing }).setHalted .running)

/-- Bytes that are no command, given to the datagram framer, whose turn is next: it rejects them by name (log 16). -/
def placeBytes (bs : List Byte) (s : State) : State :=
  pollNext (((((s.setInbox { s.inbox with source := .none }).setArb { state := .idle, rr := .network }).setHalted .running).setEnv
    { s.env with net := { s.env.net with rx := bs, readSizes := [bs.length] } }))

/-- Place what a table word stands for. -/
def placeTableWord (s : State) (nbits w : Nat) : State :=
  match decodeTableWord nbits w with
  | some i => placeCommand i s
  | none => placeBytes (packetOfTableWord nbits w) s

end Sys2Proof.Machine
end

