-- ==== Sys2Proof/Machine/Step.lean ====
section
/-! DEFINITION. The machine's one step: the next move of the agents (00 R8). -/

namespace Sys2Proof.Machine

def step (s : State) : Host.Outcome State Fault Refusal := stepChecked s

/-- The command of a table word, framed in the inbox: the block fetches nothing (10 R24), so a command comes to run only by being
framed, and this stands for its framing (log 16). -/
def State.withFetchWord (s : State) (nbits w : Nat) : State := placeTableWord s nbits w

end Sys2Proof.Machine
end

