-- ==== Sys2Proof/Safety.lean ====
section
/-! DEFINITION. What counts as a good state and a safe run: the invariants the spec states between any two steps (10 R31,
41 R160, 42 R181, 43 R213, 44 R235, 60 R300), and that the machine never stops. -/

namespace Sys2Proof.Machine

/-- 10 R31: "`rb.empty` implies `rb.head = rb.tail` and not `rb.full`; ..."; the last clause is what makes `head = tail`
unambiguous (10 R25). Indices and stored addresses are within the ring (20 R61). -/
structure RingOk (cap : Nat) (r : Ring) : Prop where
  head_lt    : r.head < cap
  tail_lt    : r.tail < cap
  of_empty   : r.empty = true → r.head = r.tail ∧ r.full = false
  of_full    : r.full = true → r.head = r.tail ∧ r.empty = false
  of_between : r.head ≠ r.tail → r.empty = false ∧ r.full = false
  of_equal   : r.head = r.tail → r.empty = true ∨ r.full = true
  mem_wf     : r.mem.wf = true
  cells_lt   : ∀ x ∈ r.mem, x.1 < cap

/-- 43 R213 (a) and (d), and that the arbitrator is in one of its two states (60 R279). -/
structure MailboxOk (s : State) : Prop where
  processing_iff : s.arb.state = .processing ↔ s.inbox.source ≠ .none
  idle_outbox    : s.arb.state = .idle → s.outbox.len = 0
  defined        : s.arb.state ≠ .undefinedState

/-- The serial framer's code and count fit its state (41 R159, R160, R162): "`sf.len` never passes 4". -/
structure FramerOk (f : SerialFramer) : Prop where
  rest     : f.state = .idle ∨ f.state = .gotStart → f.len = 0
  reading  : f.state = .readingData → hasCommand f.code = true ∧ f.len < requiredLength f.code
  complete : f.state = .gotData → hasCommand f.code = true ∧ f.len = requiredLength f.code

/-- Everything the rules promise between any two steps. -/
structure Inv (s : State) : Prop where
  parameters   : parametersOk s.cfg = true
  bindings     : bindingsOk s.cfg = true
  shape        : s.shape = true
  ring         : RingOk s.cfg.rbCap s.rb
  mailbox      : MailboxOk s
  framer       : FramerOk s.sf
  /-- the serial idle counter is below its threshold between polls (41 R163) -/
  idle_lt      : s.sf.idle < s.cfg.serTimeout
  /-- 10 R30: the inbox never exceeds the required length of a known code -/
  inbox_len    : hasCommand s.inbox.code = true → s.inbox.len ≤ requiredLength s.inbox.code
  /-- 44 R235: "the accumulator is never left at 255" -/
  accumulators : ∀ x ∈ s.ch, x.fadeAccumulator.toNat < 255
  /-- 60 R300: a halt leaves the arbitrator in `Processing` -/
  halt         : s.halted ≠ .running → s.arb.state = .processing

/-- What a `Poll` does after the handler of command `i` left `t` (43 R210, R212): route the answer that is due, clear both
mailboxes, fade, and run the interrupts still listed; a halt ends it where it stands. -/
def afterCommand (i : Instr) (t : State) : State :=
  if t.isRunning then
    let u := if answers i then route t else t
    flushArrivals (if u.isRunning then fadeStep (boundary (clearMailboxes u)) else u)
  else flushArrivals t

/-- `s` with the next move taken from the list and the interrupts of its `Poll` listed. -/
def beginPoll (arrivals : List (List Interrupt)) (later : List Event) (s : State) : State :=
  s.setSched { s.sched with events := later, arrivals := arrivals }

/-- A state a step has a meaning for (93 U11, U18; log 11). -/
structure Steppable (s : State) : Prop where
  parameters : parametersOk s.cfg = true
  bindings   : bindingsOk s.cfg = true
  shape      : s.shape = true

/-- No run from `s` ends in a fault or a refusal, however long, whatever moves are drawn. -/
def NeverStops (s : State) : Prop := ∀ k, ∃ t, Sys2Proof.core.run k s = .next t

end Sys2Proof.Machine
end

