-- ==== Sys2Proof/WellFormed.lean ====
section
/-! DEFINITION. Which instructions are well formed. A command is, whatever its operands: an operand a handler rejects is no
encoding error (30_encoding R102). A response has one of the two statuses (R92). The constraints on a configuration are in
Machine/Boot.lean. -/

namespace Sys2Proof

/-- 30 R92: "status ∈ {OK=0x0000, ERROR=0x0001}". -/
def Instr.wf : Instr → Bool
  | .test => true
  | .setch _ _ => true
  | .fade _ _ _ => true
  | .setgrp _ _ _ _ => true
  | .setip _ _ _ _ => true
  | .reboot => true
  | .resp st => st == STATUS_OK || st == STATUS_ERROR

end Sys2Proof
end

