-- ==== Sys2Proof/Certificates/Slice0/Obligations.lean ====
section
/-! DEFINITION. What is to be proved of the model. Each docstring says which sentence of the spec it formalises, and where a
clause rests on one of the spec's own decisions (`D<n>` of 92_eei_decisions) or on a choice of the model (`log <n>`). -/

open Sys2Proof Sys2Proof.Machine

/-! ## Encoding (30_encoding) -/

/-- R93: the even-parity bit is the XOR of the byte's 8 bits (that is, its count of 1 bits mod 2), and the checksum is the sum of
the parity bits of START, CODE and every data byte mod 256. -/
def Obligations.ChecksumSumsParityBits : Prop :=
  (∀ b : Byte, par b = ((List.range 8).countP fun i => b.getLsbD i) % 2) ∧
  ∀ (start code : Byte) (d : List Byte), (checksum start code d).toNat = (par start + par code + (d.map par).sum) % 256

/-- R99, over the table of R98: `hasCommand` is true exactly for the six codes, and `requiredLength` is the table's value, 0 if unknown. -/
def Obligations.CommandTableHasSixCodes : Prop :=
  ∀ c : Byte,
    (hasCommand c = true ↔ c = 0x74 ∨ c = 0x01 ∨ c = 0x02 ∨ c = 0x03 ∨ c = 0xF0 ∨ c = 0xFE) ∧
    requiredLength c = if c = 0x01 then 2 else if c = 0x02 then 3 else if c = 0x03 ∨ c = 0xF0 then 4 else 0

/-- Decoding reads back every well-formed instruction from its bytes, whatever follows them, in its direction (30_encoding
sections 1, 3, 5, 7). -/
def Obligations.DecodeReadsBackEveryInstruction : Prop :=
  ∀ (i : Instr) (rest : List Byte), i.wf = true → decode i.direction (encode i ++ rest) = .ok i rest

/-- The decoder accepts nothing but packets: what it reads is a well-formed instruction of its direction whose bytes stand first
(30_encoding sections 1, 6). -/
def Obligations.DecodeAcceptsOnlyPackets : Prop :=
  ∀ (dir : Direction) (bs : List Byte) (i : Instr) (rest : List Byte),
    decode dir bs = .ok i rest → bs = encode i ++ rest ∧ i.wf = true ∧ i.direction = dir

/-- Bytes written out from 30_encoding and 95_test_vectors 2.2, one packet for each row of the opcode table. -/
def Obligations.SpecPacketsDecode : Prop :=
  decode .toDevice [0x41, 0x74, 0x00] = .ok .test [] ∧
  decode .toDevice [0x41, 0x01, 0x02, 0xB0, 0x03] = .ok (.setch 2 0xB0) [] ∧
  decode .toDevice [0x41, 0x02, 0x00, 0x03, 0x80, 0x02] = .ok (.fade 0 3 128) [] ∧
  decode .toDevice [0x41, 0x03, 0x03, 0xFF, 0x80, 0x00, 0x01] = .ok (.setgrp 3 255 128 0) [] ∧
  decode .toDevice [0x41, 0xF0, 0xC0, 0xA8, 0x01, 0x14, 0x02] = .ok (.setip 192 168 1 20) [] ∧
  decode .toDevice [0x41, 0xFE, 0x01] = .ok .reboot [] ∧
  decode .toPeer [0x41, 0x01, 0x00, 0x01, 0x02] = .ok (.resp STATUS_ERROR) []

/-! ## Storage and the ring buffer (20_memory, 41_serial_framer) -/

/-- A write to a storage space in canonical form keeps the form, gives its own address the value and leaves every other address
alone (20_memory section 1). -/
def Obligations.WriteChangesOneByte : Prop :=
  ∀ (m : Memory) (a : Nat) (v : Byte), m.wf = true →
    (m.write a v).wf = true ∧ ∀ b, (m.write a v).read b = if b = a then v else m.read b

/-- Two storage spaces in canonical form that read alike everywhere are the same data (the model's form of memory, logs 4, 5). -/
def Obligations.EqualReadsAreEqualStorage : Prop :=
  ∀ m m' : Memory, m.wf = true → m'.wf = true → (∀ a, m.read a = m'.read a) → m = m'

/-- Seen through its operations the ring is a queue of at most RB_CAP bytes: a push appends, or is rejected and changes nothing
when RB_CAP bytes are held (41_serial_framer section 2). -/
def Obligations.PushAppendsOrIsRejected : Prop :=
  ∀ (cap : Nat) (r : Ring) (b : Byte), RingOk cap r →
    (r.contents cap).length ≤ cap ∧
    ((r.contents cap).length = cap → r.push cap b = (false, r)) ∧
    ((r.contents cap).length < cap →
      (r.push cap b).1 = true ∧ RingOk cap (r.push cap b).2 ∧ (r.push cap b).2.contents cap = r.contents cap ++ [b])

/-- A pop takes the oldest byte, or gives 0x00 and changes nothing; `rb_available` is the number of bytes held; `rb_clear` empties
the ring (41_serial_framer section 2). -/
def Obligations.PopTakesTheOldestByte : Prop :=
  ∀ (cap : Nat) (r : Ring), RingOk cap r →
    r.available cap = (r.contents cap).length ∧
    (r.contents cap = [] → r.pop cap = (0x00, r)) ∧
    (∀ b q, r.contents cap = b :: q →
      (r.pop cap).1 = b ∧ RingOk cap (r.pop cap).2 ∧ (r.pop cap).2.contents cap = q) ∧
    RingOk cap r.clear ∧ r.clear.contents cap = []

/-- R156: with capacity N, N+1 pushes without a pop: the first N return true, the Nth sets `full`, the (N+1)th returns false and
changes nothing, and N bytes are held, the first N pushed. -/
def Obligations.OverflowKeepsTheFirstBytes : Prop :=
  ∀ (cap : Nat) (r : Ring) (bs : List Byte) (b : Byte), RingOk cap r → r.empty = true → bs.length = cap →
    let pushAll := fun l => List.foldl (fun (q : Ring) x => (q.push cap x).2) r l
    (∀ before x after, bs = before ++ x :: after → ((pushAll before).push cap x).1 = true) ∧
    (pushAll bs).full = true ∧ (pushAll bs).push cap b = (false, pushAll bs) ∧
    (pushAll bs).available cap = cap ∧ (pushAll bs).contents cap = bs

/-- R274: a byte that finds the ring full is dropped; "Nothing is logged, no state changes, the interrupt returns". -/
def Obligations.FullRingDropsTheByte : Prop :=
  ∀ (b : Byte) (s : State), s.rb.full = true → rxByte b s = s

/-! ## The two interrupts (45_bam_output, 60_exceptions, 20_memory) -/

/-- R247: each firing drives every pin to the current plane's bit of its channel's level, loads the compare register with that
plane's threshold, advances the plane mod 8, and writes nothing else. -/
def Obligations.FiringShowsTheCurrentPlane : Prop :=
  ∀ s : State,
    (bamTick s).bam.pwm.length = s.ch.length ∧
    (∀ (c : Nat) (x : Channel), s.ch[c]? = some x → (bamTick s).bam.pwm[c]? = some (x.current.getLsbD s.bam.plane.toNat)) ∧
    (bamTick s).bam.ocr.toNat = 2 ^ (s.bam.plane.toNat + 1) - 1 ∧
    (bamTick s).bam.plane.toNat = (s.bam.plane.toNat + 1) % 8 ∧
    bamTick s = { s with bam := (bamTick s).bam }

/-- R251: eight consecutive firings from plane 0 show bits 0..7 of a constant level, least significant first (0xB0 gives 0, 0, 0,
0, 1, 1, 0, 1), load 1, 3, 7, ..., 255, and leave plane 0. -/
def Obligations.EightFiringsShowEveryBit : Prop :=
  (∀ s : State, s.bam.plane = 0 →
    (∀ k < 8, ∀ (c : Nat) (x : Channel), s.ch[c]? = some x → (bamTick^[k + 1] s).bam.pwm[c]? = some (x.current.getLsbD k)) ∧
    (∀ k < 8, (bamTick^[k + 1] s).bam.ocr.toNat = 2 ^ (k + 1) - 1) ∧
    (bamTick^[8] s).bam.plane = 0) ∧
  (List.range 8).map (fun k => (0xB0 : Byte).getLsbD k) = [false, false, false, false, true, true, false, true]

/-- The two interrupt steps reach the same state in either order (20_memory section 9, 60_exceptions section 3). -/
def Obligations.InterruptOrderIsUnobservable : Prop :=
  ∀ (b : Byte) (s : State), rxByte b (bamTick s) = bamTick (rxByte b s)

/-- An interrupt that comes next is taken, halted or not (the spec's D9), and writes only what its handler may: the ring, or the
generator's registers (60_exceptions section 4). -/
def Obligations.InterruptStepWritesOnlyItsOwnState : Prop :=
  ∀ (s : State) (i : Interrupt) (later : List Event), Steppable s → s.sched.events = .interrupt i :: later →
    ∃ t, step s = .next t ∧
      t = { s with bam := t.bam, rb := t.rb, sched := { s.sched with events := later } } ∧
      (i = .bamTick → t.rb = s.rb ∧ t.bam = (bamTick s).bam) ∧
      (∀ b, i = .rxByte b → t.bam = s.bam ∧ t.rb = (s.rb.push s.cfg.rbCap b).2)

/-- With respect to `RxByte` a serial poll behaves as if atomic: a byte that arrives between `rb_available` and `rb_pop` gives
exactly the state it gives before the poll (a byte was held) or after it (none was) (20_memory section 9). -/
def Obligations.SerialPollIsAtomicForReceivedBytes : Prop :=
  ∀ (s : State) (b : Byte) (later : List (List Interrupt)), RingOk s.cfg.rbCap s.rb →
    let arriving := fun l (t : State) => t.setSched { t.sched with arrivals := l }
    (s.rb.available s.cfg.rbCap ≠ 0 →
      serialPoll (arriving ([.rxByte b] :: later) s) = serialPoll (arriving ([] :: later) (rxByte b s))) ∧
    (s.rb.available s.cfg.rbCap = 0 →
      serialPoll (arriving ([.rxByte b] :: later) s) = rxByte b (serialPoll (arriving ([] :: later) s)))

/-- No interrupt event is lost: the plane advances once for each firing listed inside a `Poll`, whatever the `Poll` does
(60_exceptions section 3, the spec's D27; log 3). -/
def Obligations.EveryFiringInsideAPollRuns : Prop :=
  ∀ (arrivals : List (List Interrupt)) (s t : State), poll arrivals s = .next t →
    t.bam.plane = s.bam.plane + BitVec.ofNat 3 (arrivals.flatten.count .bamTick) ∧ t.sched.arrivals = []

/-! ## The fade controller (44_dimmer_fade) -/

/-- `FadeStep` fades every channel exactly once, whatever interrupts fall between two channels (each its own atomic unit, the
spec's D21; log 3); besides the channel file only those interrupts write, the ring and the generator, and with none listed
nothing does (44_dimmer_fade sections 1, 3). -/
def Obligations.FadeStepFadesEveryChannelOnce : Prop :=
  ∀ s : State, s.ch.length = s.cfg.numChannels →
    (fadeStep s).ch = s.ch.map Channel.fade ∧
    fadeStep s = { s with ch := (fadeStep s).ch, bam := (fadeStep s).bam, rb := (fadeStep s).rb
                          sched := { s.sched with arrivals := s.sched.arrivals.drop s.cfg.numChannels } } ∧
    (s.sched.arrivals = [] → fadeStep s = { s with ch := s.ch.map Channel.fade })

/-- One call on one channel: nothing at the target; below saturation the accumulator holds the sum; at saturation (a sum of 255
counts, the spec's D20) `current` moves by exactly one toward the target, without wrap, and the accumulator is cleared
(44_dimmer_fade sections 1, 2). -/
def Obligations.FadeMovesOneUnitAtSaturation : Prop :=
  ∀ x : Channel,
    let sum := x.fadeAccumulator.toNat + x.fadeSpeed.toNat
    x.fade.target = x.target ∧ x.fade.fadeSpeed = x.fadeSpeed ∧
    (x.current = x.target → x.fade = x) ∧
    (x.current ≠ x.target → sum < 255 → x.fade.current = x.current ∧ x.fade.fadeAccumulator.toNat = sum) ∧
    (x.current.toNat < x.target.toNat → 255 ≤ sum →
      x.fade.current.toNat = x.current.toNat + 1 ∧ x.fade.fadeAccumulator = 0) ∧
    (x.target.toNat < x.current.toNat → 255 ≤ sum →
      x.fade.current.toNat + 1 = x.current.toNat ∧ x.fade.fadeAccumulator = 0)

/-- R237: "calling the fade controller repeatedly after `current == target` never changes any channel state": a channel at its
target keeps all four fields, accumulator included, through any number of calls, whatever the other channels do. -/
def Obligations.FadeIsIdleAtTheTarget : Prop :=
  ∀ (n : Nat) (s : State), s.ch.length = s.cfg.numChannels →
    ∀ (k : Nat) (x : Channel), s.ch[k]? = some x → x.current = x.target → (fadeStep^[n] s).ch[k]? = some x

/-- Pace: from a cleared accumulator a channel of speed s > 0 takes its one step on exactly the `ceil(255 / s)`-th call, a sum of
exactly 255 counting as saturated (the spec's D20; log 20) (44_dimmer_fade section 2). -/
def Obligations.FadePaceIsCeilingOf255OverSpeed : Prop :=
  ∀ x : Channel, x.fadeAccumulator = 0 → x.fadeSpeed ≠ 0 → x.current ≠ x.target →
    let k := (255 + x.fadeSpeed.toNat - 1) / x.fadeSpeed.toNat
    (∀ j < k, (Channel.fade^[j] x).current = x.current) ∧
    Channel.fade^[k] x = { x with current := stepToward x.current x.target }

/-- A ramp over a distance d takes `d * ceil(255 / s)` calls, a sum of exactly 255 counting as saturated (the spec's D20; log 20),
and then stays (44_dimmer_fade section 2). -/
def Obligations.FadeReachesItsTargetOnTime : Prop :=
  ∀ x : Channel, x.fadeAccumulator = 0 → x.fadeSpeed ≠ 0 →
    let k := (255 + x.fadeSpeed.toNat - 1) / x.fadeSpeed.toNat
    let d := (x.target.toNat - x.current.toNat) + (x.current.toNat - x.target.toNat)
    ∀ n, d * k ≤ n → Channel.fade^[n] x = { x with current := x.target }

/-! ## The instructions (40_commands, 30_encoding) -/

/-- R125: TEST, always `41 74 00`, answers with the OK packet `41 01 00 00 01` in the outbox, an answer that is due, which is what
the serial link gets for a TEST that came from it, and changes nothing else. -/
def Obligations.TestAnswersOk : Prop :=
  encode .test = [0x41, 0x74, 0x00] ∧ answers .test = true ∧
  ∀ s : State, ∃ t, exec .test s = .next t ∧ outboxPacket t = [0x41, 0x01, 0x00, 0x00, 0x01] ∧ t = { s with outbox := t.outbox } ∧
    (s.inbox.source = .serial → (route t).serTx = s.serTx ++ [0x41, 0x01, 0x00, 0x00, 0x01])

/-- SETCH on a channel that exists: `current` and `target` become the value, `fadeSpeed` and `fadeAccumulator` stay (D7), every
other channel and all else stay, and the answer is OK (D5) and due (40_commands sections 1, 2, 3). -/
def Obligations.SetchSetsCurrentAndTarget : Prop :=
  ∀ (s : State) (c v : Byte), s.ch.length = s.cfg.numChannels → c.toNat < s.cfg.numChannels →
    ∃ t, exec (.setch c v) s = .next t ∧ answers (.setch c v) = true ∧
      (∀ (k : Nat) (x : Channel), s.ch[k]? = some x → t.ch[k]? = some (if k = c.toNat then { x with current := v, target := v } else x)) ∧
      t.ch.length = s.ch.length ∧ outboxPacket t = [0x41, 0x01, 0x00, 0x00, 0x01] ∧
      t = { s with ch := t.ch, outbox := t.outbox }

/-- FADE on a channel that exists: `target` and `fadeSpeed` become the operands, `current` and `fadeAccumulator` (D7) stay, every
other channel and all else stay, and the answer is OK (D5) and due (40_commands sections 1, 2, 3). -/
def Obligations.FadeSetsTargetAndSpeed : Prop :=
  ∀ (s : State) (c tgt spd : Byte), s.ch.length = s.cfg.numChannels → c.toNat < s.cfg.numChannels →
    ∃ t, exec (.fade c tgt spd) s = .next t ∧ answers (.fade c tgt spd) = true ∧
      (∀ (k : Nat) (x : Channel), s.ch[k]? = some x → t.ch[k]? = some (if k = c.toNat then { x with target := tgt, fadeSpeed := spd } else x)) ∧
      t.ch.length = s.ch.length ∧ outboxPacket t = [0x41, 0x01, 0x00, 0x00, 0x01] ∧
      t = { s with ch := t.ch, outbox := t.outbox }

/-- SETGRP with headroom for three channels: each of the three gets its level as by SETCH (D6), whatever interrupts fall between
the writes; those interrupts alone reach the generator and the ring; all else stays and the answer is OK (D5) and due
(40_commands sections 1, 2, 3). -/
def Obligations.SetgrpSetsThreeChannels : Prop :=
  ∀ (s : State) (g r1 r2 r3 : Byte), s.ch.length = s.cfg.numChannels → g.toNat + 3 ≤ s.cfg.numChannels →
    ∃ t, exec (.setgrp g r1 r2 r3) s = .next t ∧ answers (.setgrp g r1 r2 r3) = true ∧
      (∀ (k : Nat) (x : Channel), s.ch[k]? = some x → t.ch[k]? = some (
        if k = g.toNat then { x with current := r1, target := r1 }
        else if k = g.toNat + 1 then { x with current := r2, target := r2 }
        else if k = g.toNat + 2 then { x with current := r3, target := r3 } else x)) ∧
      t.ch.length = s.ch.length ∧ outboxPacket t = [0x41, 0x01, 0x00, 0x00, 0x01] ∧
      t = { s with ch := t.ch, outbox := t.outbox, bam := t.bam, rb := t.rb,
                   sched := { s.sched with arrivals := s.sched.arrivals.drop 2 } } ∧
      (s.sched.arrivals = [] → t.bam = s.bam ∧ t.rb = s.rb)

/-- SETGRP is three atomic units, not one (D6): a firing between the first two writes shows the new level on the first channel and
the old levels on all others (20_memory section 9, 70_reset_and_hazards section 5). -/
def Obligations.SetgrpIsNotAtomicAcrossChannels : Prop :=
  ∀ (s : State) (g r1 r2 r3 : Byte), s.ch.length = s.cfg.numChannels → g.toNat + 3 ≤ s.cfg.numChannels →
    s.sched.arrivals = [[.bamTick]] →
    ∃ t, exec (.setgrp g r1 r2 r3) s = .next t ∧
      ∀ (k : Nat) (x : Channel), s.ch[k]? = some x → t.bam.pwm[k]? = some (
        if k = g.toNat then r1.getLsbD s.bam.plane.toNat else x.current.getLsbD s.bam.plane.toNat)

/-- An index out of range: one `ChannelRange` in the log, the ERROR packet `41 01 00 01 02` in the outbox, due, and nothing else written,
for SETCH and FADE at `channel >= NUM_CHANNELS` (D4) and SETGRP at `groupStart > NUM_CHANNELS - 3` (40_commands sections
2, 3, 60_exceptions section 1). -/
def Obligations.RangeErrorMutatesNothing : Prop :=
  ∀ (s : State) (i : Instr),
    ((∃ c v, i = .setch c v ∧ s.cfg.numChannels ≤ c.toNat) ∨
     (∃ c tgt spd, i = .fade c tgt spd ∧ s.cfg.numChannels ≤ c.toNat) ∨
     (∃ g r1 r2 r3, i = .setgrp g r1 r2 r3 ∧ s.cfg.numChannels < g.toNat + 3)) →
    answers i = true ∧
    ∃ t, exec i s = .next t ∧ t.log = s.log ++ [.channelRange] ∧ outboxPacket t = [0x41, 0x01, 0x00, 0x01, 0x02] ∧
      t = { s with log := t.log, outbox := t.outbox }

/-- SETIP with the latch clear and some byte differing: the four stored bytes become the operands, only differing bytes are
written, in ascending order (D8), every other byte of the store reads as before, the latch is set, the answer is OK and due, and
all else stays (40_commands sections 1, 2, 3). -/
def Obligations.SetipCommitsDifferingBytes : Prop :=
  ∀ (s : State) (ip0 ip1 ip2 ip3 : Byte),
    let a := s.cfg.nvsIpAddr
    let wanted := [(a, ip0), (a + 1, ip1), (a + 2, ip2), (a + 3, ip3)]
    s.env.nvs.wf = true → s.ipLatch = false → (∃ p ∈ wanted, s.env.nvs.read p.1 ≠ p.2) →
    ∃ t, exec (.setip ip0 ip1 ip2 ip3) s = .next t ∧ answers (.setip ip0 ip1 ip2 ip3) = true ∧
      (∀ p ∈ wanted, t.env.nvs.read p.1 = p.2) ∧
      (∀ b, b < a ∨ a + 4 ≤ b → t.env.nvs.read b = s.env.nvs.read b) ∧
      t.env.nvsWrites = s.env.nvsWrites ++ wanted.filter (fun p => s.env.nvs.read p.1 != p.2) ∧
      t.ipLatch = true ∧ outboxPacket t = [0x41, 0x01, 0x00, 0x00, 0x01] ∧
      t = { s with outbox := t.outbox, ipLatch := t.ipLatch
                   env := { s.env with nvs := t.env.nvs, nvsWrites := t.env.nvsWrites } }

/-- SETIP with the latch set, or with no byte differing (D8): the ERROR packet, due, and nothing else written (40_commands sections
1, 2, 3). -/
def Obligations.SetipRefusedWritesNothing : Prop :=
  ∀ (s : State) (ip0 ip1 ip2 ip3 : Byte),
    (s.ipLatch = true ∨ nvsReadBlock s.cfg.nvsIpAddr s = [ip0, ip1, ip2, ip3]) →
    ∃ t, exec (.setip ip0 ip1 ip2 ip3) s = .next t ∧ answers (.setip ip0 ip1 ip2 ip3) = true ∧
      outboxPacket t = [0x41, 0x01, 0x00, 0x01, 0x02] ∧
      t = { s with outbox := t.outbox }

/-- At most once a boot: after a SETIP that was answered OK, a second one with any operands is answered ERROR and writes no byte
(40_commands section 3). -/
def Obligations.SecondCommitWritesNothing : Prop :=
  ∀ (s t : State) (a b c d a' b' c' d' : Byte), exec (.setip a b c d) s = .next t →
    outboxPacket t = [0x41, 0x01, 0x00, 0x00, 0x01] →
    ∃ u, exec (.setip a' b' c' d') t = .next u ∧ outboxPacket u = [0x41, 0x01, 0x00, 0x01, 0x02] ∧ u.env = t.env

/-- REBOOT halts the main agent (D9) and writes nothing else: no answer is built and none is due (40_commands section 3). -/
def Obligations.RebootHaltsAndBuildsNoAnswer : Prop :=
  answers .reboot = false ∧
  ∀ s : State, ∃ t, exec .reboot s = .next t ∧ t.halted = .haltedReboot ∧ t = { s with halted := t.halted }

/-- The `Poll` that dispatches a REBOOT sends nothing, clears no mailbox and fades nothing: the halt is all it does (40_commands
section 3, 60_exceptions section 8; D9). -/
def Obligations.RebootEndsItsPollAtOnce : Prop :=
  ∀ (s : State) (later : List Event), Steppable s → s.sched.events = .poll [] :: later →
    s.halted = .running → s.cfg.mailboxWired = true → s.arb.state = .processing → s.inbox.code = 0xFE →
    ∃ t, step s = .next t ∧ t.halted = .haltedReboot ∧
      t = { s with halted := t.halted, sched := { s.sched with events := later } }

/-- RESP: the packet `41 01 hi lo ck` goes to the transport the command came from and to no other, a pin's is dropped; nothing
else is written but the outbox it was built in. With no source the arbitrator's state is undefined, which is fatal. The same bytes
received are a SETCH (30_encoding sections 1, 8; 43_arbitrator section 3; D13, D17, D30; log 13). -/
def Obligations.ResponseGoesToTheCommandsSource : Prop :=
  ∀ (s : State) (st : Half),
    decode .toDevice (encode (.resp st)) = .ok (.setch (hiByte st) (loByte st)) [] ∧
    ∃ t, exec (.resp st) s = .next t ∧ outboxPacket t = encode (.resp st) ∧
      t = { s with outbox := t.outbox, serTx := t.serTx, env := { s.env with net := { s.env.net with sent := t.env.net.sent } },
                   log := t.log, halted := t.halted } ∧
      (s.inbox.source = .serial → t.serTx = s.serTx ++ encode (.resp st) ∧ t.env = s.env ∧ t.log = s.log ∧ t.halted = s.halted) ∧
      (s.inbox.source = .network →
        t.env.net.sent = s.env.net.sent ++ [encode (.resp st)] ∧ t.serTx = s.serTx ∧ t.log = s.log ∧ t.halted = s.halted) ∧
      (s.inbox.source = .digitalInput → t = { s with outbox := t.outbox }) ∧
      (s.inbox.source = .none →
        t.serTx = s.serTx ∧ t.env = s.env ∧ t.log = s.log ++ [.fatalState] ∧ t.halted = .haltedFatal)

/-- No handler writes an accumulator, and only FADE writes a speed (10_state section 2; D7). -/
def Obligations.HandlersKeepAccumulatorsAndSpeeds : Prop :=
  ∀ (i : Instr) (s t : State), exec i s = .next t →
    t.ch.map Channel.fadeAccumulator = s.ch.map Channel.fadeAccumulator ∧
    ((∀ c tgt spd, i ≠ .fade c tgt spd) → t.ch.map Channel.fadeSpeed = s.ch.map Channel.fadeSpeed)

/-! ## Dispatch and the arbitrator (40_commands, 43_arbitrator) -/

/-- A step runs the decoded command: when the inbox holds the code and data of a command and dispatch is due, the step is `exec` of
that command, with the interrupts of the `Poll` listed before it and `afterCommand` after it: route, clear, the fade step (in the
same `Poll` by the spec's D2), and the interrupts still listed (at its end by the model's log 3). So the answer the handler built
goes once to the transport the command came from, REBOOT alone sends none (D9), and any other command leaves both mailboxes empty
and the arbitrator in `Idle` (43_arbitrator sections 1, 2, 3; 40_commands sections 1, 2). -/
def Obligations.StepRunsTheFramedCommand : Prop :=
  ∀ (s : State) (i : Instr) (arrivals : List (List Interrupt)) (later : List Event),
    Steppable s → s.sched.events = .poll arrivals :: later → s.halted = .running → s.cfg.mailboxWired = true →
    s.arb.state = .processing → decode .toDevice (packet s.inbox.code s.inbox.payload) = .ok i [] →
    step s = (andThen (exec i (beginPoll arrivals later s)) fun t => .next (afterCommand i t)) ∧
    ∃ t u, exec i (beginPoll arrivals later s) = .next t ∧ step s = .next u ∧
      let answer := if i = .reboot then [] else [outboxPacket t]
      (s.inbox.source = .serial → u.serTx = s.serTx ++ answer.flatten ∧ u.env.net.sent = s.env.net.sent) ∧
      (s.inbox.source = .network → u.serTx = s.serTx ∧ u.env.net.sent = s.env.net.sent ++ answer) ∧
      (s.inbox.source = .digitalInput → u.serTx = s.serTx ∧ u.env.net.sent = s.env.net.sent) ∧
      (s.inbox.source ≠ .none → i ≠ .reboot → u.inbox.source = .none ∧ u.outbox.len = 0 ∧ u.arb.state = .idle)

/-- The word of an opcode table row, placed by `withFetchWord`, is what the very next step runs (log 16), with `afterCommand` after it
(the spec's D2, log 3). -/
def Obligations.PlacedWordRunsNext : Prop :=
  ∀ (s : State) (nbits w : Nat) (i : Instr), Steppable s → s.cfg.mailboxWired = true → decodeTableWord nbits w = some i →
    ∃ t, t.inbox.code = i.code ∧ t.inbox.payload = i.data ∧ t.inbox.source = .serial ∧
      t = { s with inbox := t.inbox, arb := { s.arb with state := .processing }, halted := .running } ∧
      step (s.withFetchWord nbits w) = andThen (exec i t) fun u => .next (afterCommand i u)

/-- R121: dispatch of an unknown code is a no-op returning false, and the arbitrator then clears the mailbox as after any command:
only the inbox's source, the outbox's length and the arbitrator's state are written, and every other field of both mailboxes
stays (D30) (43_arbitrator sections 2, 3). -/
def Obligations.UnknownCodeIsANoOp : Prop :=
  let cleared := fun s : State => { s with inbox := { s.inbox with source := .none }, outbox := { s.outbox with len := 0 }
                                           arb := { s.arb with state := .idle } }
  (∀ s : State, clearMailboxes s = cleared s) ∧
  ∀ s : State, s.cfg.mailboxWired = true → hasCommand s.inbox.code = false →
    dispatch s = .next ⟨s, false⟩ ∧ (s.halted = .running → s.arb.state = .processing → arbStep s = .next (cleared s))

/-- The two fatal errors. Without the mailbox references the first dispatch logs `FatalConfig` and halts; no handler runs and nothing
is cleared (D28). An arbitrator step in a state that is neither `Idle` nor `Processing` logs `FatalState` and halts (the model's
log 10). In both cases nothing else is written, and a `Poll` ends there without a fade step (40_commands section 1, 43_arbitrator
section 1, 60_exceptions section 1). -/
def Obligations.AbsentMailboxIsFatal : Prop :=
  let halts := fun (s : State) (e : Error) =>
    arbStep s = .next { s with log := s.log ++ [e], halted := .haltedFatal } ∧
    (s.halted = .running → s.sched.arrivals = [] →
      poll [] s = .next { s with log := s.log ++ [e], halted := .haltedFatal })
  ∀ s : State,
    (s.arb.state = .processing → s.cfg.mailboxWired = false → halts s .fatalConfig) ∧
    (s.arb.state = .undefinedState → halts s .fatalState)

/-- Every command that dispatch finds in the inbox, a short network command too, runs with the bytes the inbox holds and, for each
operand it lacks, a free value of its own, of which nothing is known and which is counted as taken; its answer is due (40_commands
section 2; D14, log 8). -/
def Obligations.MissingOperandIsAFreeValue : Prop :=
  ∀ s : State, s.cfg.mailboxWired = true →
    let op := fun k => if k < s.inbox.len then s.inbox.data.getD k 0 else Config.freeByte (s.sched.draws + (k - s.inbox.len))
    let runs := fun (operands : Nat) (i : Instr) =>
      dispatch s = andThen (exec i { s with sched := { s.sched with draws := s.sched.draws + (operands - s.inbox.len) } })
        fun t => .next ⟨t, true⟩
    (s.inbox.code = 0x01 → runs 2 (.setch (op 0) (op 1))) ∧
    (s.inbox.code = 0x02 → runs 3 (.fade (op 0) (op 1) (op 2))) ∧
    (s.inbox.code = 0x03 → runs 4 (.setgrp (op 0) (op 1) (op 2) (op 3))) ∧
    (s.inbox.code = 0xF0 → runs 4 (.setip (op 0) (op 1) (op 2) (op 3)))

/-- State `Idle`: exactly the sourcer the index names is polled, on the state with the index advanced, in the order DigitalInput,
Serial, Network, DigitalInput (D19), and `Processing` follows exactly when the inbox was populated, by that sourcer; no other
sourcer's state, and nothing the handlers and the send paths write, changes. A `Poll` is then this step and one fade step (D2), with
the interrupts listed for its boundaries (log 3) (43_arbitrator sections 1, 2). -/
def Obligations.IdlePollsOneSourcerInTurn : Prop :=
  ∀ s : State, s.arb.state = .idle → s.inbox.source = .none →
    let advanced := fun r : Turn => { s with arb := { s.arb with rr := r } }
    ∃ polled t, arbStep s = .next t ∧
      (s.arb.rr = .digitalInput → polled = diPoll (advanced .serial) ∧ t.arb.rr = .serial) ∧
      (s.arb.rr = .serial → polled = serialPoll (advanced .network) ∧ t.arb.rr = .network) ∧
      (s.arb.rr = .network → polled = netPoll (advanced .digitalInput) ∧ t.arb.rr = .digitalInput) ∧
      t = (if polled.inbox.source = .none then polled else { polled with arb := { polled.arb with state := .processing } }) ∧
      (t.arb.state = if t.inbox.source = .none then .idle else .processing) ∧
      (s.arb.rr ≠ .serial → t.sf = s.sf ∧ t.rb = s.rb ∧ t.inbox.source ≠ .serial) ∧
      (s.arb.rr ≠ .network → t.nfIdle = s.nfIdle ∧ t.env = s.env ∧ t.inbox.source ≠ .network) ∧
      (s.arb.rr ≠ .digitalInput → t.di = s.di ∧ t.inbox.source ≠ .digitalInput) ∧
      t.ch = s.ch ∧ t.outbox = s.outbox ∧ t.ipLatch = s.ipLatch ∧ t.halted = s.halted ∧ t.serTx = s.serTx ∧
      (s.halted = .running → poll s.sched.arrivals s = .next (flushArrivals (fadeStep (boundary t))))

/-- While `Processing` no sourcer is polled: the turn (no advance in `Processing`: the spec's D19; log 20), the framers, the pin
sourcer and the unread network bytes stay, and the ring and the generator too but for interrupts (43_arbitrator section 2). -/
def Obligations.NoSourcerRunsWhileProcessing : Prop :=
  ∀ s t : State, s.arb.state = .processing → arbStep s = .next t →
    t.arb.rr = s.arb.rr ∧ t.sf = s.sf ∧ t.nfIdle = s.nfIdle ∧ t.di = s.di ∧
    t.env.net.rx = s.env.net.rx ∧ t.env.net.readSizes = s.env.net.readSizes ∧
    (s.sched.arrivals = [] → t.rb = s.rb ∧ t.bam = s.bam)

/-- A halted block takes no main-context step (60_exceptions section 8; D9). -/
def Obligations.HaltedPollDoesNothing : Prop :=
  ∀ s : State, s.halted ≠ .running → s.sched.arrivals = [] → poll [] s = .next s

/-- Only `Reset` clears `ip_latch` or leaves a halt (10_state section 4, 70_reset_and_hazards section 1). -/
def Obligations.OnlyResetClearsLatchOrHalt : Prop :=
  ∀ (e : Event) (s t : State), e ≠ .reset → runEvent e s = .next t →
    (s.ipLatch = true → t.ipLatch = true) ∧ (s.halted ≠ .running → t.halted = s.halted)

/-! ## The serial framer (41_serial_framer) -/

/-- Round trip: the bytes of any command, received one per serial poll by a framer at rest with an empty ring, leave exactly that
command in the inbox with source Serial, the framer at rest again (D11), and nothing logged (41_serial_framer section 3). -/
def Obligations.SerialFramerReadsBackEveryCommand : Prop :=
  ∀ (i : Instr) (s : State), i.direction = .toDevice →
    RingOk s.cfg.rbCap s.rb → s.rb.empty = true → s.sf.state = .idle → s.sf.buf.length = MAX_DATA → s.sched.arrivals = [] →
    let t := (encode i).foldl (fun u b => serialPoll (rxByte b u)) s
    t.inbox.code = i.code ∧ t.inbox.payload = i.data ∧ t.inbox.len = i.data.length ∧ t.inbox.source = .serial ∧
    t.sf.state = .idle ∧ t.sf.len = 0 ∧ t.log = s.log

/-- What one byte does in each of the framer's four states. A byte the state accepts moves the framer on and writes nothing else, but
that a matching checksum fills the inbox with source Serial and resets the framer (the spec's D11; log 20); a byte it does not accept is logged under
its name and resets length and state, and leaves `sf.code`, `sf.buf`, the ring, the inbox and all else (41_serial_framer section 3,
60_exceptions section 1). -/
def Obligations.SerialFramerJudgesEveryByte : Prop :=
  ∀ (s : State) (b : Byte),
    let failed := fun e => { s with log := s.log ++ [e], sf := { s.sf with state := .idle, len := 0 } }
    let held := s.sf.buf.take s.sf.len
    (s.sf.state = .idle → b = 0x41 → sfByte b s = { s with sf := { s.sf with state := .gotStart } }) ∧
    (s.sf.state = .idle → b ≠ 0x41 → sfByte b s = failed .badStart) ∧
    (s.sf.state = .gotStart → hasCommand b = true → sfByte b s =
      { s with sf := { s.sf with code := b, len := 0, state := if 0 < requiredLength b then .readingData else .gotData } }) ∧
    (s.sf.state = .gotStart → hasCommand b = false → sfByte b s = failed .unknownCode) ∧
    (s.sf.state = .readingData → sfByte b s =
      { s with sf := { s.sf with buf := s.sf.buf.set s.sf.len b, len := s.sf.len + 1
                                 state := if s.sf.len + 1 = requiredLength s.sf.code then .gotData else .readingData } }) ∧
    (s.sf.state = .gotData → b = checksum 0x41 s.sf.code held →
      (sfByte b s).inbox.code = s.sf.code ∧ (sfByte b s).inbox.payload = held ∧ (sfByte b s).inbox.len = held.length ∧
      (sfByte b s).inbox.source = .serial ∧
      sfByte b s = { s with inbox := (sfByte b s).inbox, sf := { s.sf with state := .idle, len := 0 } }) ∧
    (s.sf.state = .gotData → b ≠ checksum 0x41 s.sf.code held → sfByte b s = failed .badChecksum)

/-- Silence in mid-packet: SER_TIMEOUT consecutive serial polls that find nothing log one `SerialTimeout` and reset the framer, fewer
only count (41_serial_framer section 3; D12). -/
def Obligations.SerialTimeoutRecoversTheFramer : Prop :=
  ∀ s : State, 1 ≤ s.cfg.serTimeout → s.rb.available s.cfg.rbCap = 0 → s.sched.arrivals = [] →
    s.sf.state ≠ .idle → s.sf.idle = 0 →
    (∀ k < s.cfg.serTimeout, serialPoll^[k] s = { s with sf := { s.sf with idle := k } }) ∧
    serialPoll^[s.cfg.serTimeout] s =
      { s with log := s.log ++ [.serialTimeout], sf := { s.sf with state := .idle, len := 0, idle := 0 } }

/-! ## The datagram framer (42_datagram_and_digital_sourcers) -/

/-- The five tests accept exactly the reads that are START, a known code, at most the required number of data bytes and their
checksum (D14), and such a read fills the inbox with source Network and nothing else. A network poll with bytes available makes one
read, clears `nf.idle` and gives the bytes read to those tests (42 section 1). -/
def Obligations.DatagramAcceptedIffPacket : Prop :=
  (∀ buf : List Byte, datagramError buf = none ↔
    ∃ code data, hasCommand code = true ∧ data.length ≤ requiredLength code ∧ buf = packet code data) ∧
  (∀ (s : State) (code : Byte) (data : List Byte), hasCommand code = true → data.length ≤ requiredLength code →
    (netPacket (packet code data) s).inbox.code = code ∧ (netPacket (packet code data) s).inbox.payload = data ∧
    (netPacket (packet code data) s).inbox.source = .network ∧
    netPacket (packet code data) s = { s with inbox := (netPacket (packet code data) s).inbox }) ∧
  ∀ s : State, s.env.net.rx ≠ [] →
    netPoll s = netPacket (netRead s).1 { (netRead s).2 with nfIdle := 0 } ∧
    ∀ (code : Byte) (data : List Byte), hasCommand code = true → data.length ≤ requiredLength code →
      (netRead s).1 = packet code data →
      (netPoll s).inbox.code = code ∧ (netPoll s).inbox.payload = data ∧ (netPoll s).inbox.source = .network ∧
      netPoll s = { (netRead s).2 with nfIdle := 0, inbox := (netPoll s).inbox }

/-- Any other read is logged under the first failing test and closes the session; the inbox stays (42 section 1; D16). What a close
does to the Transport, a closed session and no unread bytes, is the model's choice (log 7). A network poll whose read is such does
that and clears `nf.idle`. -/
def Obligations.BadDatagramClosesTheSession : Prop :=
  let closed := fun (s : State) (e : Error) =>
    { s with log := s.log ++ [e], nfIdle := 0
             env := { s.env with net := { s.env.net with session := .closed, rx := [], closes := s.env.net.closes + 1 } } }
  (∀ (s : State) (buf : List Byte) (e : Error), datagramError buf = some e → netPacket buf s = closed s e) ∧
  ∀ (s : State) (e : Error), s.env.net.rx ≠ [] → datagramError (netRead s).1 = some e → netPoll s = closed (netRead s).2 e

/-- Two whole packets in one read always fail the length test, whichever they are (42 section 1). -/
def Obligations.MergedDatagramsFailTheLengthTest : Prop :=
  ∀ i j : Instr, i.direction = .toDevice → j.direction = .toDevice → datagramError (encode i ++ encode j) = some .netLength

/-- Silence on an active session: the network poll that makes the count NET_TIMEOUT + 1 logs `NetTimeout` and closes, earlier ones
only count (42 section 1; D15). That a close leaves the session closed is the model's Transport (log 7). -/
def Obligations.NetTimeoutClosesTheSession : Prop :=
  ∀ s : State, s.env.net.rx = [] → s.env.net.session ≠ .listening → s.nfIdle = 0 →
    (∀ k ≤ s.cfg.netTimeout, netPoll^[k] s = { s with nfIdle := k }) ∧
    netPoll^[s.cfg.netTimeout + 1] s =
      { s with log := s.log ++ [.netTimeout]
               env := { s.env with net := { s.env.net with session := .closed, closes := s.env.net.closes + 1 } } }

/-- One read takes from 1 to `min(available, MAX_PACKET)` of the oldest bytes and leaves the rest, whatever the environment or a free
value says, and writes nothing else of the block (42 section 1; D32, log 7). -/
def Obligations.OneReadIsBounded : Prop :=
  ∀ s : State, s.env.net.rx ≠ [] → 1 ≤ s.cfg.maxPacket →
    1 ≤ (netRead s).1.length ∧ (netRead s).1.length ≤ s.cfg.maxPacket ∧
    (netRead s).1 ++ (netRead s).2.env.net.rx = s.env.net.rx ∧
    (netRead s).2 =
      { s with env := { s.env with net := { s.env.net with rx := (netRead s).2.env.net.rx, readSizes := s.env.net.readSizes.drop 1 } }
               sched := { s.sched with draws := (netRead s).2.sched.draws } }

/-! ## The digital-input sourcer (42_datagram_and_digital_sourcers) -/

/-- R191: "rising (prev=0,cur=1), falling (prev=1,cur=0), change (prev≠cur), level-high (cur=1), level-low (cur=0)". -/
def Obligations.TriggerFollowsTheModeTable : Prop :=
  ∀ prev cur : Bool,
    (trigger .rising prev cur = true ↔ prev = false ∧ cur = true) ∧
    (trigger .falling prev cur = true ↔ prev = true ∧ cur = false) ∧
    (trigger .change prev cur = true ↔ prev ≠ cur) ∧
    (trigger .levelHigh prev cur = true ↔ cur = true) ∧
    (trigger .levelLow prev cur = true ↔ cur = false)

/-- Each digital-input poll samples exactly one binding, the one the index names: its history takes the level read, whatever the
trigger, the index advances mod N_BIND (D18), a trigger copies the bound command into the inbox, and nothing else is written. The
level is the pin's, where the environment set it (log 6). With no bindings configured the poll does nothing and the arbitrator's
turn is spent (D18) (42 section 2). -/
def Obligations.PinPollSamplesExactlyOneBinding : Prop :=
  (∀ (s : State) (b : Binding) (prev : Bool), s.cfg.bind[s.di.idx]? = some b → s.di.hist[s.di.idx]? = some prev →
    ∃ cur, (∀ v, s.env.pins.lookup b.pin = some v → cur = v) ∧
      (diPoll s).di = { idx := (s.di.idx + 1) % s.cfg.bind.length, hist := s.di.hist.set s.di.idx cur } ∧
      (trigger b.mode prev cur = true →
        (diPoll s).inbox.code = b.code ∧ (diPoll s).inbox.payload = b.data ∧ (diPoll s).inbox.source = .digitalInput) ∧
      (trigger b.mode prev cur = false → (diPoll s).inbox = s.inbox) ∧
      diPoll s = { s with di := (diPoll s).di, inbox := (diPoll s).inbox
                          sched := { s.sched with draws := (diPoll s).sched.draws } }) ∧
  ∀ s : State, s.cfg.bind = [] →
    diPoll s = s ∧
    (s.arb = { state := .idle, rr := .digitalInput } → s.inbox.source = .none →
      arbStep s = .next { s with arb := { state := .idle, rr := .serial } })

/-! ## Reset, the invariant, and whole-machine promises (70_reset_and_hazards, 10_state) -/

/-- `Reset` gives every element its value of 10_state section 9 (the source fixes the empty mailboxes, `Idle` and the clear latch;
the rest is the spec's D24; the ring's bytes are log 4) and leaves the environment and the parameters alone, from a halt too. -/
def Obligations.ResetRestoresTheTable : Prop :=
  ∀ (s : State) (later : List Event), Steppable s → s.sched.events = .reset :: later →
    ∃ t, step s = .next t ∧
      t.cfg = s.cfg ∧ t.env = s.env ∧ t.sched = { s.sched with events := later } ∧
      t.ch.length = s.cfg.numChannels ∧
      (∀ x ∈ t.ch, x.current = 0 ∧ x.target = 0 ∧ x.fadeSpeed = 0 ∧ x.fadeAccumulator = 0) ∧
      t.bam.plane = 0 ∧ t.bam.ocr = s.cfg.ocrReset ∧ t.bam.pwm.length = s.cfg.numChannels ∧ (∀ p ∈ t.bam.pwm, p = false) ∧
      t.arb.state = .idle ∧ t.arb.rr = .digitalInput ∧
      t.inbox.source = .none ∧ t.inbox.code = 0 ∧ t.inbox.len = 0 ∧ t.outbox.len = 0 ∧ t.outbox.code = 0 ∧
      (∀ b ∈ t.inbox.data, b = 0) ∧ (∀ b ∈ t.outbox.data, b = 0) ∧
      t.sf.state = .idle ∧ t.sf.code = 0 ∧ t.sf.len = 0 ∧ t.sf.idle = 0 ∧ (∀ b ∈ t.sf.buf, b = 0) ∧
      t.rb.head = 0 ∧ t.rb.tail = 0 ∧ t.rb.empty = true ∧ t.rb.full = false ∧
      t.nfIdle = 0 ∧ t.di.idx = 0 ∧ t.di.hist = s.cfg.histReset ∧
      t.ipLatch = false ∧ t.halted = .running ∧ t.serTx = [] ∧ t.log = []

/-- The machine right after reset meets the invariant, whatever well-formed parameters and bindings it has, in whatever environment
and whatever moves come; `State.reset`, whose parameters are the reference ones (log 2), is one of them. The values are those of
10_state section 9 (the spec's D24; log 9), with nothing listed in the ring (log 4), and `State.reset`'s environment is logs 5, 6, 7. -/
def Obligations.ResetStateIsGood : Prop :=
  (∀ (c : Config) (env : Environment) (sched : Schedule), parametersOk c = true → bindingsOk c = true → env.nvs.wf = true →
    sched.arrivals = [] → Inv (State.resetIn c env sched)) ∧
  Inv State.reset

/-- Every step, whoever takes it and wherever interrupts fall, keeps the invariant: the ring's flags and indices (10_state section
6), mailbox exclusivity and a full inbox exactly in `Processing` (43_arbitrator section 2), the framer's count, the counters'
ranges, accumulators below saturation, both storage spaces canonical. -/
def Obligations.EveryStepKeepsTheInvariant : Prop :=
  ∀ s t : State, Inv s → step s = .next t → Inv t

/-- From a state that meets the invariant no run ever ends in a fault or a refusal (the model's own stops, logs 11, 12), whatever moves
are listed or drawn. -/
def Obligations.GoodStatesNeverStop : Prop :=
  ∀ s : State, Inv s → NeverStops s

/-- Parameters or bindings outside their constraints are refused, and only they and values that are no state of the block stop a
step at once (93_implementation_defined U11, U18; logs 11, 12). -/
def Obligations.IllFormedMachinesAreRefused : Prop :=
  ∀ s : State,
    (parametersOk s.cfg = false → step s = .refused .badParameters) ∧
    (parametersOk s.cfg = true → bindingsOk s.cfg = false → step s = .refused .badBinding) ∧
    (parametersOk s.cfg = true → bindingsOk s.cfg = true → s.shape = false → step s = .fault .notAState) ∧
    (Steppable s → ∃ t, step s = .next t)

/-- The log carries no behaviour (the spec's D25; log 20): with any other log in its place every step does the same to everything else
(10_state section 6, 60_exceptions section 1). -/
def Obligations.LogIsNeverRead : Prop :=
  ∀ (s t : State) (l : List Error), step s = .next t → ∃ l', step (s.setLog l) = .next (t.setLog l')
end

