-- ==== Sys2Proof/Laws/Memory.lean ====
section
/-! SUPPORT. The laws of byte-addressed storage: a read after a write, and that every operation keeps the canonical form. -/

namespace Sys2Proof.Machine

namespace Memory

@[simp] theorem read_nil (a : Nat) : Memory.read [] a = unwritten := rfl

theorem read_cons (k a : Nat) (b : Byte) (m : Memory) :
    Memory.read ((k, b) :: m) a = if k = a then b else m.read a := rfl

theorem wfFrom_cons (lo : Option Nat) (k : Nat) (b : Byte) (m : Memory) :
    wfFrom lo ((k, b) :: m) = true ↔ above lo k = true ∧ b ≠ unwritten ∧ wfFrom (some k) m = true := by
  simp [wfFrom, and_assoc]

/-- A rising list can start from any lower bound. -/
theorem wfFrom_mono {lo : Option Nat} {k : Nat} {m : Memory} (hk : above lo k = true) (h : wfFrom (some k) m = true) :
    wfFrom lo m = true := by
  cases m with
  | nil => rfl
  | cons c m =>
    obtain ⟨j, b⟩ := c
    rw [wfFrom_cons] at h ⊢
    refine ⟨?_, h.2⟩
    have hj := h.1
    cases lo with
    | none => rfl
    | some l => simp only [above, decide_eq_true_eq] at hk hj ⊢; omega

/-- An address at or below the bound is not listed. -/
theorem read_of_le {a : Nat} : ∀ {m : Memory} {k : Nat}, wfFrom (some k) m = true → a ≤ k → m.read a = unwritten
  | [], _, _, _ => rfl
  | (j, b) :: m, k, h, ha => by
    rw [wfFrom_cons] at h
    have hj : k < j := by simpa [above] using h.1
    rw [read_cons, if_neg (by omega)]
    exact read_of_le h.2.2 (by omega)

theorem read_insert (m : Memory) (a b : Nat) (v : Byte) :
    (m.insert a v).read b = if a = b then v else m.read b := by
  induction m with
  | nil => rfl
  | cons c m ih =>
    obtain ⟨k, w⟩ := c
    by_cases hk : k = a
    · subst hk; simp only [insert, if_true, read_cons]; split <;> rfl
    · by_cases hlt : a < k
      · simp only [insert, if_neg hk, if_pos hlt, read_cons]
      · simp only [insert, if_neg hk, if_neg hlt, read_cons, ih]
        split <;> split <;> simp_all

theorem read_erase {lo : Option Nat} {m : Memory} (h : wfFrom lo m = true) (a b : Nat) :
    (m.erase a).read b = if a = b then unwritten else m.read b := by
  induction m generalizing lo with
  | nil => simp [erase]
  | cons c m ih =>
    obtain ⟨k, w⟩ := c
    rw [wfFrom_cons] at h
    by_cases hk : k = a
    · subst hk
      simp only [erase, if_true, read_cons]
      split
      · next hb => subst hb; exact read_of_le h.2.2 (Nat.le_refl _)
      · rfl
    · by_cases hlt : a < k
      · simp only [erase, if_neg hk, if_pos hlt, read_cons]
        by_cases hb : a = b
        · subst hb; rw [if_neg hk, if_pos rfl, read_of_le h.2.2 (by omega)]
        · rw [if_neg hb]
      · simp only [erase, if_neg hk, if_neg hlt, read_cons, ih h.2.2]
        split <;> split <;> simp_all

theorem wfFrom_insert {lo : Option Nat} {m : Memory} {a : Nat} {v : Byte} (h : wfFrom lo m = true)
    (ha : above lo a = true) (hv : v ≠ unwritten) : wfFrom lo (m.insert a v) = true := by
  induction m generalizing lo with
  | nil => rw [insert, wfFrom_cons]; exact ⟨ha, hv, rfl⟩
  | cons c m ih =>
    obtain ⟨k, w⟩ := c
    rw [wfFrom_cons] at h
    by_cases hk : k = a
    · subst hk; rw [insert, if_pos rfl, wfFrom_cons]; exact ⟨h.1, hv, h.2.2⟩
    · by_cases hlt : a < k
      · rw [insert, if_neg hk, if_pos hlt, wfFrom_cons, wfFrom_cons]
        exact ⟨ha, hv, by simpa [above] using hlt, h.2⟩
      · rw [insert, if_neg hk, if_neg hlt, wfFrom_cons]
        exact ⟨h.1, h.2.1, ih h.2.2 (by simp [above]; omega)⟩

theorem wfFrom_erase {lo : Option Nat} {m : Memory} (h : wfFrom lo m = true) (a : Nat) :
    wfFrom lo (m.erase a) = true := by
  induction m generalizing lo with
  | nil => rfl
  | cons c m ih =>
    obtain ⟨k, w⟩ := c
    have h' := h
    rw [wfFrom_cons] at h
    rw [erase]
    split
    · exact wfFrom_mono h.1 h.2.2
    · split
      · exact h'
      · rw [wfFrom_cons]; exact ⟨h.1, h.2.1, ih h.2.2⟩

/-- Every write keeps the canonical form. -/
theorem wf_write {m : Memory} (h : m.wf = true) (a : Nat) (v : Byte) : (m.write a v).wf = true := by
  rw [write]
  split
  · exact wfFrom_erase h a
  · next hv => exact wfFrom_insert h rfl hv

/-- Which cells a write can list. -/
theorem mem_write {m : Memory} {a : Nat} {v : Byte} {x : Host.Cell} (h : x ∈ m.write a v) : x ∈ m ∨ x.1 = a := by
  have hi : x ∈ m.insert a v → x ∈ m ∨ x.1 = a := by
    clear h
    induction m with
    | nil => intro h; right; simp [insert] at h; rw [h]
    | cons c m ih =>
      obtain ⟨k, w⟩ := c
      rw [insert]
      split
      · intro h; rcases List.mem_cons.1 h with h | h
        · right; rw [h]
        · left; exact List.mem_cons_of_mem _ h
      · split
        · intro h; rcases List.mem_cons.1 h with h | h
          · right; rw [h]
          · left; exact h
        · intro h; rcases List.mem_cons.1 h with h | h
          · left; rw [h]; exact List.mem_cons_self
          · rcases ih h with h | h
            · left; exact List.mem_cons_of_mem _ h
            · right; exact h
  have he : x ∈ m.erase a → x ∈ m := by
    clear h hi
    induction m with
    | nil => exact id
    | cons c m ih =>
      obtain ⟨k, w⟩ := c
      rw [erase]
      split
      · exact List.mem_cons_of_mem _
      · split
        · exact id
        · intro h; rcases List.mem_cons.1 h with h | h
          · rw [h]; exact List.mem_cons_self
          · exact List.mem_cons_of_mem _ (ih h)
  rw [write] at h
  split at h
  · exact .inl (he h)
  · exact hi h

end Memory

end Sys2Proof.Machine
end

