-- ==== Sys2Proof/Laws/State.lean ====
section
/-! SUPPORT. One lemma per field per update of the state, true by rfl, so that no proof unfolds a record update. -/

namespace Sys2Proof.Machine

section
variable (s : State) (v : List Channel)
@[simp] theorem State.setCh_cfg : (s.setCh v).cfg = s.cfg := rfl
@[simp] theorem State.setCh_ch : (s.setCh v).ch = v := rfl
@[simp] theorem State.setCh_bam : (s.setCh v).bam = s.bam := rfl
@[simp] theorem State.setCh_arb : (s.setCh v).arb = s.arb := rfl
@[simp] theorem State.setCh_inbox : (s.setCh v).inbox = s.inbox := rfl
@[simp] theorem State.setCh_outbox : (s.setCh v).outbox = s.outbox := rfl
@[simp] theorem State.setCh_sf : (s.setCh v).sf = s.sf := rfl
@[simp] theorem State.setCh_rb : (s.setCh v).rb = s.rb := rfl
@[simp] theorem State.setCh_nfIdle : (s.setCh v).nfIdle = s.nfIdle := rfl
@[simp] theorem State.setCh_di : (s.setCh v).di = s.di := rfl
@[simp] theorem State.setCh_ipLatch : (s.setCh v).ipLatch = s.ipLatch := rfl
@[simp] theorem State.setCh_halted : (s.setCh v).halted = s.halted := rfl
@[simp] theorem State.setCh_serTx : (s.setCh v).serTx = s.serTx := rfl
@[simp] theorem State.setCh_log : (s.setCh v).log = s.log := rfl
@[simp] theorem State.setCh_env : (s.setCh v).env = s.env := rfl
@[simp] theorem State.setCh_sched : (s.setCh v).sched = s.sched := rfl
@[simp] theorem State.setCh_self : s.setCh s.ch = s := rfl
@[simp] theorem State.setCh_twice (w : List Channel) : (s.setCh w).setCh v = s.setCh v := rfl
end

section
variable (s : State) (v : Bam)
@[simp] theorem State.setBam_cfg : (s.setBam v).cfg = s.cfg := rfl
@[simp] theorem State.setBam_ch : (s.setBam v).ch = s.ch := rfl
@[simp] theorem State.setBam_bam : (s.setBam v).bam = v := rfl
@[simp] theorem State.setBam_arb : (s.setBam v).arb = s.arb := rfl
@[simp] theorem State.setBam_inbox : (s.setBam v).inbox = s.inbox := rfl
@[simp] theorem State.setBam_outbox : (s.setBam v).outbox = s.outbox := rfl
@[simp] theorem State.setBam_sf : (s.setBam v).sf = s.sf := rfl
@[simp] theorem State.setBam_rb : (s.setBam v).rb = s.rb := rfl
@[simp] theorem State.setBam_nfIdle : (s.setBam v).nfIdle = s.nfIdle := rfl
@[simp] theorem State.setBam_di : (s.setBam v).di = s.di := rfl
@[simp] theorem State.setBam_ipLatch : (s.setBam v).ipLatch = s.ipLatch := rfl
@[simp] theorem State.setBam_halted : (s.setBam v).halted = s.halted := rfl
@[simp] theorem State.setBam_serTx : (s.setBam v).serTx = s.serTx := rfl
@[simp] theorem State.setBam_log : (s.setBam v).log = s.log := rfl
@[simp] theorem State.setBam_env : (s.setBam v).env = s.env := rfl
@[simp] theorem State.setBam_sched : (s.setBam v).sched = s.sched := rfl
@[simp] theorem State.setBam_self : s.setBam s.bam = s := rfl
@[simp] theorem State.setBam_twice (w : Bam) : (s.setBam w).setBam v = s.setBam v := rfl
end

section
variable (s : State) (v : Arbitrator)
@[simp] theorem State.setArb_cfg : (s.setArb v).cfg = s.cfg := rfl
@[simp] theorem State.setArb_ch : (s.setArb v).ch = s.ch := rfl
@[simp] theorem State.setArb_bam : (s.setArb v).bam = s.bam := rfl
@[simp] theorem State.setArb_arb : (s.setArb v).arb = v := rfl
@[simp] theorem State.setArb_inbox : (s.setArb v).inbox = s.inbox := rfl
@[simp] theorem State.setArb_outbox : (s.setArb v).outbox = s.outbox := rfl
@[simp] theorem State.setArb_sf : (s.setArb v).sf = s.sf := rfl
@[simp] theorem State.setArb_rb : (s.setArb v).rb = s.rb := rfl
@[simp] theorem State.setArb_nfIdle : (s.setArb v).nfIdle = s.nfIdle := rfl
@[simp] theorem State.setArb_di : (s.setArb v).di = s.di := rfl
@[simp] theorem State.setArb_ipLatch : (s.setArb v).ipLatch = s.ipLatch := rfl
@[simp] theorem State.setArb_halted : (s.setArb v).halted = s.halted := rfl
@[simp] theorem State.setArb_serTx : (s.setArb v).serTx = s.serTx := rfl
@[simp] theorem State.setArb_log : (s.setArb v).log = s.log := rfl
@[simp] theorem State.setArb_env : (s.setArb v).env = s.env := rfl
@[simp] theorem State.setArb_sched : (s.setArb v).sched = s.sched := rfl
@[simp] theorem State.setArb_self : s.setArb s.arb = s := rfl
@[simp] theorem State.setArb_twice (w : Arbitrator) : (s.setArb w).setArb v = s.setArb v := rfl
end

section
variable (s : State) (v : Command)
@[simp] theorem State.setInbox_cfg : (s.setInbox v).cfg = s.cfg := rfl
@[simp] theorem State.setInbox_ch : (s.setInbox v).ch = s.ch := rfl
@[simp] theorem State.setInbox_bam : (s.setInbox v).bam = s.bam := rfl
@[simp] theorem State.setInbox_arb : (s.setInbox v).arb = s.arb := rfl
@[simp] theorem State.setInbox_inbox : (s.setInbox v).inbox = v := rfl
@[simp] theorem State.setInbox_outbox : (s.setInbox v).outbox = s.outbox := rfl
@[simp] theorem State.setInbox_sf : (s.setInbox v).sf = s.sf := rfl
@[simp] theorem State.setInbox_rb : (s.setInbox v).rb = s.rb := rfl
@[simp] theorem State.setInbox_nfIdle : (s.setInbox v).nfIdle = s.nfIdle := rfl
@[simp] theorem State.setInbox_di : (s.setInbox v).di = s.di := rfl
@[simp] theorem State.setInbox_ipLatch : (s.setInbox v).ipLatch = s.ipLatch := rfl
@[simp] theorem State.setInbox_halted : (s.setInbox v).halted = s.halted := rfl
@[simp] theorem State.setInbox_serTx : (s.setInbox v).serTx = s.serTx := rfl
@[simp] theorem State.setInbox_log : (s.setInbox v).log = s.log := rfl
@[simp] theorem State.setInbox_env : (s.setInbox v).env = s.env := rfl
@[simp] theorem State.setInbox_sched : (s.setInbox v).sched = s.sched := rfl
@[simp] theorem State.setInbox_self : s.setInbox s.inbox = s := rfl
@[simp] theorem State.setInbox_twice (w : Command) : (s.setInbox w).setInbox v = s.setInbox v := rfl
end

section
variable (s : State) (v : Command)
@[simp] theorem State.setOutbox_cfg : (s.setOutbox v).cfg = s.cfg := rfl
@[simp] theorem State.setOutbox_ch : (s.setOutbox v).ch = s.ch := rfl
@[simp] theorem State.setOutbox_bam : (s.setOutbox v).bam = s.bam := rfl
@[simp] theorem State.setOutbox_arb : (s.setOutbox v).arb = s.arb := rfl
@[simp] theorem State.setOutbox_inbox : (s.setOutbox v).inbox = s.inbox := rfl
@[simp] theorem State.setOutbox_outbox : (s.setOutbox v).outbox = v := rfl
@[simp] theorem State.setOutbox_sf : (s.setOutbox v).sf = s.sf := rfl
@[simp] theorem State.setOutbox_rb : (s.setOutbox v).rb = s.rb := rfl
@[simp] theorem State.setOutbox_nfIdle : (s.setOutbox v).nfIdle = s.nfIdle := rfl
@[simp] theorem State.setOutbox_di : (s.setOutbox v).di = s.di := rfl
@[simp] theorem State.setOutbox_ipLatch : (s.setOutbox v).ipLatch = s.ipLatch := rfl
@[simp] theorem State.setOutbox_halted : (s.setOutbox v).halted = s.halted := rfl
@[simp] theorem State.setOutbox_serTx : (s.setOutbox v).serTx = s.serTx := rfl
@[simp] theorem State.setOutbox_log : (s.setOutbox v).log = s.log := rfl
@[simp] theorem State.setOutbox_env : (s.setOutbox v).env = s.env := rfl
@[simp] theorem State.setOutbox_sched : (s.setOutbox v).sched = s.sched := rfl
@[simp] theorem State.setOutbox_self : s.setOutbox s.outbox = s := rfl
@[simp] theorem State.setOutbox_twice (w : Command) : (s.setOutbox w).setOutbox v = s.setOutbox v := rfl
end

section
variable (s : State) (v : SerialFramer)
@[simp] theorem State.setSf_cfg : (s.setSf v).cfg = s.cfg := rfl
@[simp] theorem State.setSf_ch : (s.setSf v).ch = s.ch := rfl
@[simp] theorem State.setSf_bam : (s.setSf v).bam = s.bam := rfl
@[simp] theorem State.setSf_arb : (s.setSf v).arb = s.arb := rfl
@[simp] theorem State.setSf_inbox : (s.setSf v).inbox = s.inbox := rfl
@[simp] theorem State.setSf_outbox : (s.setSf v).outbox = s.outbox := rfl
@[simp] theorem State.setSf_sf : (s.setSf v).sf = v := rfl
@[simp] theorem State.setSf_rb : (s.setSf v).rb = s.rb := rfl
@[simp] theorem State.setSf_nfIdle : (s.setSf v).nfIdle = s.nfIdle := rfl
@[simp] theorem State.setSf_di : (s.setSf v).di = s.di := rfl
@[simp] theorem State.setSf_ipLatch : (s.setSf v).ipLatch = s.ipLatch := rfl
@[simp] theorem State.setSf_halted : (s.setSf v).halted = s.halted := rfl
@[simp] theorem State.setSf_serTx : (s.setSf v).serTx = s.serTx := rfl
@[simp] theorem State.setSf_log : (s.setSf v).log = s.log := rfl
@[simp] theorem State.setSf_env : (s.setSf v).env = s.env := rfl
@[simp] theorem State.setSf_sched : (s.setSf v).sched = s.sched := rfl
@[simp] theorem State.setSf_self : s.setSf s.sf = s := rfl
@[simp] theorem State.setSf_twice (w : SerialFramer) : (s.setSf w).setSf v = s.setSf v := rfl
end

section
variable (s : State) (v : Ring)
@[simp] theorem State.setRb_cfg : (s.setRb v).cfg = s.cfg := rfl
@[simp] theorem State.setRb_ch : (s.setRb v).ch = s.ch := rfl
@[simp] theorem State.setRb_bam : (s.setRb v).bam = s.bam := rfl
@[simp] theorem State.setRb_arb : (s.setRb v).arb = s.arb := rfl
@[simp] theorem State.setRb_inbox : (s.setRb v).inbox = s.inbox := rfl
@[simp] theorem State.setRb_outbox : (s.setRb v).outbox = s.outbox := rfl
@[simp] theorem State.setRb_sf : (s.setRb v).sf = s.sf := rfl
@[simp] theorem State.setRb_rb : (s.setRb v).rb = v := rfl
@[simp] theorem State.setRb_nfIdle : (s.setRb v).nfIdle = s.nfIdle := rfl
@[simp] theorem State.setRb_di : (s.setRb v).di = s.di := rfl
@[simp] theorem State.setRb_ipLatch : (s.setRb v).ipLatch = s.ipLatch := rfl
@[simp] theorem State.setRb_halted : (s.setRb v).halted = s.halted := rfl
@[simp] theorem State.setRb_serTx : (s.setRb v).serTx = s.serTx := rfl
@[simp] theorem State.setRb_log : (s.setRb v).log = s.log := rfl
@[simp] theorem State.setRb_env : (s.setRb v).env = s.env := rfl
@[simp] theorem State.setRb_sched : (s.setRb v).sched = s.sched := rfl
@[simp] theorem State.setRb_self : s.setRb s.rb = s := rfl
@[simp] theorem State.setRb_twice (w : Ring) : (s.setRb w).setRb v = s.setRb v := rfl
end

section
variable (s : State) (v : Nat)
@[simp] theorem State.setNfIdle_cfg : (s.setNfIdle v).cfg = s.cfg := rfl
@[simp] theorem State.setNfIdle_ch : (s.setNfIdle v).ch = s.ch := rfl
@[simp] theorem State.setNfIdle_bam : (s.setNfIdle v).bam = s.bam := rfl
@[simp] theorem State.setNfIdle_arb : (s.setNfIdle v).arb = s.arb := rfl
@[simp] theorem State.setNfIdle_inbox : (s.setNfIdle v).inbox = s.inbox := rfl
@[simp] theorem State.setNfIdle_outbox : (s.setNfIdle v).outbox = s.outbox := rfl
@[simp] theorem State.setNfIdle_sf : (s.setNfIdle v).sf = s.sf := rfl
@[simp] theorem State.setNfIdle_rb : (s.setNfIdle v).rb = s.rb := rfl
@[simp] theorem State.setNfIdle_nfIdle : (s.setNfIdle v).nfIdle = v := rfl
@[simp] theorem State.setNfIdle_di : (s.setNfIdle v).di = s.di := rfl
@[simp] theorem State.setNfIdle_ipLatch : (s.setNfIdle v).ipLatch = s.ipLatch := rfl
@[simp] theorem State.setNfIdle_halted : (s.setNfIdle v).halted = s.halted := rfl
@[simp] theorem State.setNfIdle_serTx : (s.setNfIdle v).serTx = s.serTx := rfl
@[simp] theorem State.setNfIdle_log : (s.setNfIdle v).log = s.log := rfl
@[simp] theorem State.setNfIdle_env : (s.setNfIdle v).env = s.env := rfl
@[simp] theorem State.setNfIdle_sched : (s.setNfIdle v).sched = s.sched := rfl
@[simp] theorem State.setNfIdle_self : s.setNfIdle s.nfIdle = s := rfl
@[simp] theorem State.setNfIdle_twice (w : Nat) : (s.setNfIdle w).setNfIdle v = s.setNfIdle v := rfl
end

section
variable (s : State) (v : PinSourcer)
@[simp] theorem State.setDi_cfg : (s.setDi v).cfg = s.cfg := rfl
@[simp] theorem State.setDi_ch : (s.setDi v).ch = s.ch := rfl
@[simp] theorem State.setDi_bam : (s.setDi v).bam = s.bam := rfl
@[simp] theorem State.setDi_arb : (s.setDi v).arb = s.arb := rfl
@[simp] theorem State.setDi_inbox : (s.setDi v).inbox = s.inbox := rfl
@[simp] theorem State.setDi_outbox : (s.setDi v).outbox = s.outbox := rfl
@[simp] theorem State.setDi_sf : (s.setDi v).sf = s.sf := rfl
@[simp] theorem State.setDi_rb : (s.setDi v).rb = s.rb := rfl
@[simp] theorem State.setDi_nfIdle : (s.setDi v).nfIdle = s.nfIdle := rfl
@[simp] theorem State.setDi_di : (s.setDi v).di = v := rfl
@[simp] theorem State.setDi_ipLatch : (s.setDi v).ipLatch = s.ipLatch := rfl
@[simp] theorem State.setDi_halted : (s.setDi v).halted = s.halted := rfl
@[simp] theorem State.setDi_serTx : (s.setDi v).serTx = s.serTx := rfl
@[simp] theorem State.setDi_log : (s.setDi v).log = s.log := rfl
@[simp] theorem State.setDi_env : (s.setDi v).env = s.env := rfl
@[simp] theorem State.setDi_sched : (s.setDi v).sched = s.sched := rfl
@[simp] theorem State.setDi_self : s.setDi s.di = s := rfl
@[simp] theorem State.setDi_twice (w : PinSourcer) : (s.setDi w).setDi v = s.setDi v := rfl
end

section
variable (s : State) (v : Bool)
@[simp] theorem State.setIpLatch_cfg : (s.setIpLatch v).cfg = s.cfg := rfl
@[simp] theorem State.setIpLatch_ch : (s.setIpLatch v).ch = s.ch := rfl
@[simp] theorem State.setIpLatch_bam : (s.setIpLatch v).bam = s.bam := rfl
@[simp] theorem State.setIpLatch_arb : (s.setIpLatch v).arb = s.arb := rfl
@[simp] theorem State.setIpLatch_inbox : (s.setIpLatch v).inbox = s.inbox := rfl
@[simp] theorem State.setIpLatch_outbox : (s.setIpLatch v).outbox = s.outbox := rfl
@[simp] theorem State.setIpLatch_sf : (s.setIpLatch v).sf = s.sf := rfl
@[simp] theorem State.setIpLatch_rb : (s.setIpLatch v).rb = s.rb := rfl
@[simp] theorem State.setIpLatch_nfIdle : (s.setIpLatch v).nfIdle = s.nfIdle := rfl
@[simp] theorem State.setIpLatch_di : (s.setIpLatch v).di = s.di := rfl
@[simp] theorem State.setIpLatch_ipLatch : (s.setIpLatch v).ipLatch = v := rfl
@[simp] theorem State.setIpLatch_halted : (s.setIpLatch v).halted = s.halted := rfl
@[simp] theorem State.setIpLatch_serTx : (s.setIpLatch v).serTx = s.serTx := rfl
@[simp] theorem State.setIpLatch_log : (s.setIpLatch v).log = s.log := rfl
@[simp] theorem State.setIpLatch_env : (s.setIpLatch v).env = s.env := rfl
@[simp] theorem State.setIpLatch_sched : (s.setIpLatch v).sched = s.sched := rfl
@[simp] theorem State.setIpLatch_self : s.setIpLatch s.ipLatch = s := rfl
@[simp] theorem State.setIpLatch_twice (w : Bool) : (s.setIpLatch w).setIpLatch v = s.setIpLatch v := rfl
end

section
variable (s : State) (v : Halt)
@[simp] theorem State.setHalted_cfg : (s.setHalted v).cfg = s.cfg := rfl
@[simp] theorem State.setHalted_ch : (s.setHalted v).ch = s.ch := rfl
@[simp] theorem State.setHalted_bam : (s.setHalted v).bam = s.bam := rfl
@[simp] theorem State.setHalted_arb : (s.setHalted v).arb = s.arb := rfl
@[simp] theorem State.setHalted_inbox : (s.setHalted v).inbox = s.inbox := rfl
@[simp] theorem State.setHalted_outbox : (s.setHalted v).outbox = s.outbox := rfl
@[simp] theorem State.setHalted_sf : (s.setHalted v).sf = s.sf := rfl
@[simp] theorem State.setHalted_rb : (s.setHalted v).rb = s.rb := rfl
@[simp] theorem State.setHalted_nfIdle : (s.setHalted v).nfIdle = s.nfIdle := rfl
@[simp] theorem State.setHalted_di : (s.setHalted v).di = s.di := rfl
@[simp] theorem State.setHalted_ipLatch : (s.setHalted v).ipLatch = s.ipLatch := rfl
@[simp] theorem State.setHalted_halted : (s.setHalted v).halted = v := rfl
@[simp] theorem State.setHalted_serTx : (s.setHalted v).serTx = s.serTx := rfl
@[simp] theorem State.setHalted_log : (s.setHalted v).log = s.log := rfl
@[simp] theorem State.setHalted_env : (s.setHalted v).env = s.env := rfl
@[simp] theorem State.setHalted_sched : (s.setHalted v).sched = s.sched := rfl
@[simp] theorem State.setHalted_self : s.setHalted s.halted = s := rfl
@[simp] theorem State.setHalted_twice (w : Halt) : (s.setHalted w).setHalted v = s.setHalted v := rfl
end

section
variable (s : State) (v : List Byte)
@[simp] theorem State.setSerTx_cfg : (s.setSerTx v).cfg = s.cfg := rfl
@[simp] theorem State.setSerTx_ch : (s.setSerTx v).ch = s.ch := rfl
@[simp] theorem State.setSerTx_bam : (s.setSerTx v).bam = s.bam := rfl
@[simp] theorem State.setSerTx_arb : (s.setSerTx v).arb = s.arb := rfl
@[simp] theorem State.setSerTx_inbox : (s.setSerTx v).inbox = s.inbox := rfl
@[simp] theorem State.setSerTx_outbox : (s.setSerTx v).outbox = s.outbox := rfl
@[simp] theorem State.setSerTx_sf : (s.setSerTx v).sf = s.sf := rfl
@[simp] theorem State.setSerTx_rb : (s.setSerTx v).rb = s.rb := rfl
@[simp] theorem State.setSerTx_nfIdle : (s.setSerTx v).nfIdle = s.nfIdle := rfl
@[simp] theorem State.setSerTx_di : (s.setSerTx v).di = s.di := rfl
@[simp] theorem State.setSerTx_ipLatch : (s.setSerTx v).ipLatch = s.ipLatch := rfl
@[simp] theorem State.setSerTx_halted : (s.setSerTx v).halted = s.halted := rfl
@[simp] theorem State.setSerTx_serTx : (s.setSerTx v).serTx = v := rfl
@[simp] theorem State.setSerTx_log : (s.setSerTx v).log = s.log := rfl
@[simp] theorem State.setSerTx_env : (s.setSerTx v).env = s.env := rfl
@[simp] theorem State.setSerTx_sched : (s.setSerTx v).sched = s.sched := rfl
@[simp] theorem State.setSerTx_self : s.setSerTx s.serTx = s := rfl
@[simp] theorem State.setSerTx_twice (w : List Byte) : (s.setSerTx w).setSerTx v = s.setSerTx v := rfl
end

section
variable (s : State) (v : List Error)
@[simp] theorem State.setLog_cfg : (s.setLog v).cfg = s.cfg := rfl
@[simp] theorem State.setLog_ch : (s.setLog v).ch = s.ch := rfl
@[simp] theorem State.setLog_bam : (s.setLog v).bam = s.bam := rfl
@[simp] theorem State.setLog_arb : (s.setLog v).arb = s.arb := rfl
@[simp] theorem State.setLog_inbox : (s.setLog v).inbox = s.inbox := rfl
@[simp] theorem State.setLog_outbox : (s.setLog v).outbox = s.outbox := rfl
@[simp] theorem State.setLog_sf : (s.setLog v).sf = s.sf := rfl
@[simp] theorem State.setLog_rb : (s.setLog v).rb = s.rb := rfl
@[simp] theorem State.setLog_nfIdle : (s.setLog v).nfIdle = s.nfIdle := rfl
@[simp] theorem State.setLog_di : (s.setLog v).di = s.di := rfl
@[simp] theorem State.setLog_ipLatch : (s.setLog v).ipLatch = s.ipLatch := rfl
@[simp] theorem State.setLog_halted : (s.setLog v).halted = s.halted := rfl
@[simp] theorem State.setLog_serTx : (s.setLog v).serTx = s.serTx := rfl
@[simp] theorem State.setLog_log : (s.setLog v).log = v := rfl
@[simp] theorem State.setLog_env : (s.setLog v).env = s.env := rfl
@[simp] theorem State.setLog_sched : (s.setLog v).sched = s.sched := rfl
@[simp] theorem State.setLog_self : s.setLog s.log = s := rfl
@[simp] theorem State.setLog_twice (w : List Error) : (s.setLog w).setLog v = s.setLog v := rfl
end

section
variable (s : State) (v : Environment)
@[simp] theorem State.setEnv_cfg : (s.setEnv v).cfg = s.cfg := rfl
@[simp] theorem State.setEnv_ch : (s.setEnv v).ch = s.ch := rfl
@[simp] theorem State.setEnv_bam : (s.setEnv v).bam = s.bam := rfl
@[simp] theorem State.setEnv_arb : (s.setEnv v).arb = s.arb := rfl
@[simp] theorem State.setEnv_inbox : (s.setEnv v).inbox = s.inbox := rfl
@[simp] theorem State.setEnv_outbox : (s.setEnv v).outbox = s.outbox := rfl
@[simp] theorem State.setEnv_sf : (s.setEnv v).sf = s.sf := rfl
@[simp] theorem State.setEnv_rb : (s.setEnv v).rb = s.rb := rfl
@[simp] theorem State.setEnv_nfIdle : (s.setEnv v).nfIdle = s.nfIdle := rfl
@[simp] theorem State.setEnv_di : (s.setEnv v).di = s.di := rfl
@[simp] theorem State.setEnv_ipLatch : (s.setEnv v).ipLatch = s.ipLatch := rfl
@[simp] theorem State.setEnv_halted : (s.setEnv v).halted = s.halted := rfl
@[simp] theorem State.setEnv_serTx : (s.setEnv v).serTx = s.serTx := rfl
@[simp] theorem State.setEnv_log : (s.setEnv v).log = s.log := rfl
@[simp] theorem State.setEnv_env : (s.setEnv v).env = v := rfl
@[simp] theorem State.setEnv_sched : (s.setEnv v).sched = s.sched := rfl
@[simp] theorem State.setEnv_self : s.setEnv s.env = s := rfl
@[simp] theorem State.setEnv_twice (w : Environment) : (s.setEnv w).setEnv v = s.setEnv v := rfl
end

section
variable (s : State) (v : Schedule)
@[simp] theorem State.setSched_cfg : (s.setSched v).cfg = s.cfg := rfl
@[simp] theorem State.setSched_ch : (s.setSched v).ch = s.ch := rfl
@[simp] theorem State.setSched_bam : (s.setSched v).bam = s.bam := rfl
@[simp] theorem State.setSched_arb : (s.setSched v).arb = s.arb := rfl
@[simp] theorem State.setSched_inbox : (s.setSched v).inbox = s.inbox := rfl
@[simp] theorem State.setSched_outbox : (s.setSched v).outbox = s.outbox := rfl
@[simp] theorem State.setSched_sf : (s.setSched v).sf = s.sf := rfl
@[simp] theorem State.setSched_rb : (s.setSched v).rb = s.rb := rfl
@[simp] theorem State.setSched_nfIdle : (s.setSched v).nfIdle = s.nfIdle := rfl
@[simp] theorem State.setSched_di : (s.setSched v).di = s.di := rfl
@[simp] theorem State.setSched_ipLatch : (s.setSched v).ipLatch = s.ipLatch := rfl
@[simp] theorem State.setSched_halted : (s.setSched v).halted = s.halted := rfl
@[simp] theorem State.setSched_serTx : (s.setSched v).serTx = s.serTx := rfl
@[simp] theorem State.setSched_log : (s.setSched v).log = s.log := rfl
@[simp] theorem State.setSched_env : (s.setSched v).env = s.env := rfl
@[simp] theorem State.setSched_sched : (s.setSched v).sched = v := rfl
@[simp] theorem State.setSched_self : s.setSched s.sched = s := rfl
@[simp] theorem State.setSched_twice (w : Schedule) : (s.setSched w).setSched v = s.setSched v := rfl
end

end Sys2Proof.Machine
end

