-- ==== Sys2Proof/Laws/Ops.lean ====
section
/-! SUPPORT. For each shared operation, one lemma that says which fields it can write (its frame, as an equation between states)
and, where it matters, what it writes. Later proofs cite these and do not unfold the operations. -/

namespace Sys2Proof.Machine

/-! ## Outcomes -/

@[simp] theorem andThen_next {σ τ : Type} (s : σ) (f : σ → Host.Outcome τ Fault Refusal) :
    andThen (.next s) f = f s := rfl

/-- A next state comes out of `andThen` only through a next state. -/
theorem andThen_eq_next {σ τ : Type} {o : Host.Outcome σ Fault Refusal} {f : σ → Host.Outcome τ Fault Refusal} {t : τ} :
    andThen o f = .next t ↔ ∃ s, o = .next s ∧ f s = .next t := by
  cases o with
  | next s => exact ⟨fun h => ⟨s, rfl, h⟩, fun ⟨_, e, h⟩ => by cases e; exact h⟩
  | fault r => exact ⟨nofun, nofun⟩
  | refused r => exact ⟨nofun, nofun⟩

/-! ## Errors -/

/-- `raise` writes the log and, for a fatal error, `halted`. -/
theorem raise_eq (e : Error) (s : State) :
    raise e s = { s with log := if e.logged then s.log ++ [e] else s.log
                         halted := if e.fatal then .haltedFatal else s.halted } := by
  cases e <;> rfl

theorem raise_of_logged {e : Error} (hl : e.logged = true) (hf : e.fatal = false) (s : State) :
    raise e s = s.setLog (s.log ++ [e]) := by
  rw [raise_eq, hl, hf]; rfl

/-! ## The Command record -/

theorem fill_payload (c : Command) (code : Byte) (d : List Byte) : (c.fill code d).payload = d := by
  simp [Command.fill, Command.payload, overlay]

theorem fill_data_length (c : Command) (code : Byte) (d : List Byte) (h : d.length ≤ c.data.length) :
    (c.fill code d).data.length = c.data.length := by
  simp [Command.fill, overlay]; omega

/-- What the outbox holds after `Respond`, as the packet a transport sends. -/
theorem respond_packet (status : Half) (s : State) :
    outboxPacket (respond status s) = packet RESP_CODE [hiByte status, loByte status] := by
  rw [outboxPacket, respond, State.setOutbox_outbox, fill_payload]; rfl

theorem respond_frame (status : Half) (s : State) :
    respond status s = { s with outbox := (respond status s).outbox } := rfl

/-! ## Interrupts and boundaries -/

theorem rxByte_eq (b : Byte) (s : State) : rxByte b s = s.setRb (s.rb.push s.cfg.rbCap b).2 := by
  rw [rxByte]
  split
  · next h => rw [h]
  · next r h =>
    have hr : r = s.rb := by
      unfold Ring.push at h
      split at h <;> cases h
      rfl
    rw [h, hr]; rfl

/-- An interrupt writes the generator's registers or the ring, and nothing else (20 R76, 60 R292). -/
theorem takeInterrupt_frame (i : Interrupt) (s : State) :
    takeInterrupt i s = { s with bam := (takeInterrupt i s).bam, rb := (takeInterrupt i s).rb } := by
  cases i with
  | rxByte b => simp only [takeInterrupt, rxByte_eq]; rfl
  | bamTick => rfl

theorem takeInterrupts_frame (is : List Interrupt) (s : State) :
    takeInterrupts is s = { s with bam := (takeInterrupts is s).bam, rb := (takeInterrupts is s).rb } := by
  induction is generalizing s with
  | nil => rfl
  | cons i is ih =>
    have h : takeInterrupts (i :: is) s = takeInterrupts is (takeInterrupt i s) := rfl
    rw [h, ih, takeInterrupt_frame]

theorem boundary_frame (s : State) :
    boundary s = { s with bam := (boundary s).bam, rb := (boundary s).rb,
                          sched := { s.sched with arrivals := s.sched.arrivals.drop 1 } } := by
  rw [boundary]
  split
  · next h => ext1 <;> try rfl
              show s.sched = _
              rw [h, List.drop_nil, ← h]
  · next h => rw [takeInterrupts_frame, h]; rfl

section
variable (s : State)
@[simp] theorem boundary_cfg : (boundary s).cfg = s.cfg := by rw [boundary_frame]
@[simp] theorem boundary_ch : (boundary s).ch = s.ch := by rw [boundary_frame]
@[simp] theorem boundary_arb : (boundary s).arb = s.arb := by rw [boundary_frame]
@[simp] theorem boundary_inbox : (boundary s).inbox = s.inbox := by rw [boundary_frame]
@[simp] theorem boundary_outbox : (boundary s).outbox = s.outbox := by rw [boundary_frame]
@[simp] theorem boundary_sf : (boundary s).sf = s.sf := by rw [boundary_frame]
@[simp] theorem boundary_nfIdle : (boundary s).nfIdle = s.nfIdle := by rw [boundary_frame]
@[simp] theorem boundary_di : (boundary s).di = s.di := by rw [boundary_frame]
@[simp] theorem boundary_ipLatch : (boundary s).ipLatch = s.ipLatch := by rw [boundary_frame]
@[simp] theorem boundary_halted : (boundary s).halted = s.halted := by rw [boundary_frame]
@[simp] theorem boundary_serTx : (boundary s).serTx = s.serTx := by rw [boundary_frame]
@[simp] theorem boundary_log : (boundary s).log = s.log := by rw [boundary_frame]
@[simp] theorem boundary_env : (boundary s).env = s.env := by rw [boundary_frame]
@[simp] theorem boundary_sched : (boundary s).sched = { s.sched with arrivals := s.sched.arrivals.drop 1 } := by
  rw [boundary_frame]
end

/-- With nothing listed, nothing falls at a boundary. -/
theorem boundary_none {s : State} (h : s.sched.arrivals = []) : boundary s = s := by rw [boundary, h]

theorem boundary_cons {s : State} {here : List Interrupt} {later : List (List Interrupt)} (h : s.sched.arrivals = here :: later) :
    boundary s = takeInterrupts here (s.setSched { s.sched with arrivals := later }) := by rw [boundary, h]

theorem flushArrivals_frame (s : State) :
    flushArrivals s = { s with bam := (flushArrivals s).bam, rb := (flushArrivals s).rb,
                               sched := { s.sched with arrivals := [] } } := by
  rw [flushArrivals, takeInterrupts_frame]; rfl

/-! ## The fade controller -/

/-- Everything the fade controller can write: the levels, and what the interrupts at its boundaries write (44 R231). -/
theorem fadeStep_frame (s : State) :
    fadeStep s = { s with ch := (fadeStep s).ch, bam := (fadeStep s).bam, rb := (fadeStep s).rb,
                          sched := { s.sched with arrivals := s.sched.arrivals.drop s.cfg.numChannels } } := by
  have h : ∀ (l : List Nat) (t : State), l.foldl (fun t c => boundary (fadeChannel c t)) t =
      { t with ch := (l.foldl (fun t c => boundary (fadeChannel c t)) t).ch
               bam := (l.foldl (fun t c => boundary (fadeChannel c t)) t).bam
               rb := (l.foldl (fun t c => boundary (fadeChannel c t)) t).rb
               sched := { t.sched with arrivals := t.sched.arrivals.drop l.length } } := by
    intro l
    induction l with
    | nil => intro t; rfl
    | cons c l ih =>
      intro t
      rw [List.foldl_cons, ih, boundary_frame]
      simp [fadeChannel]
  have := h (List.range s.cfg.numChannels) s
  rwa [List.length_range] at this

/-- With no interrupt listed the fade controller writes the channel file alone. -/
theorem fadeStep_quiet {s : State} (h : s.sched.arrivals = []) : fadeStep s = { s with ch := (fadeStep s).ch } := by
  have key : ∀ (l : List Nat) (t : State), t.sched.arrivals = [] →
      (l.foldl (fun t c => boundary (fadeChannel c t)) t) = { t with ch := (l.foldl (fun t c => boundary (fadeChannel c t)) t).ch } := by
    intro l
    induction l with
    | nil => intro t _; rfl
    | cons c l ih =>
      intro t ht
      rw [List.foldl_cons, boundary_none (s := fadeChannel c t) ht]
      exact (ih (fadeChannel c t) ht).trans rfl
  exact key _ s h

/-! ## The sourcers -/

theorem sfReset_frame (s : State) : sfReset s = { s with sf := (sfReset s).sf } := rfl

/-- Judging a byte writes the framer, the inbox and the log. -/
theorem sfByte_frame (b : Byte) (s : State) :
    sfByte b s = { s with sf := (sfByte b s).sf, inbox := (sfByte b s).inbox, log := (sfByte b s).log } := by
  unfold sfByte sfIdleByte sfCodeByte sfDataByte sfChecksumByte
  split
  · split <;> rfl
  · split <;> rfl
  · rfl
  · dsimp only; split <;> rfl

theorem sfNoByte_frame (s : State) : sfNoByte s = { s with sf := (sfNoByte s).sf, log := (sfNoByte s).log } := by
  unfold sfNoByte
  dsimp only
  split
  · split <;> rfl
  · rfl

theorem serialPoll_frame (s : State) :
    serialPoll s = { s with sf := (serialPoll s).sf, inbox := (serialPoll s).inbox, log := (serialPoll s).log,
                            rb := (serialPoll s).rb, bam := (serialPoll s).bam,
                            sched := { s.sched with arrivals := s.sched.arrivals.drop 1 } } := by
  unfold serialPoll
  dsimp only
  split
  · rw [sfNoByte_frame, boundary_frame]
  · rw [sfByte_frame]; ext1 <;> simp

theorem netClose_frame (s : State) : netClose s = { s with env := (netClose s).env } := rfl

/-- What a read leads to writes the inbox, or the log, the Transport and the idle counter. -/
theorem netPacket_frame (buf : List Byte) (s : State) :
    netPacket buf s = { s with inbox := (netPacket buf s).inbox, log := (netPacket buf s).log,
                               halted := (netPacket buf s).halted,
                               env := { s.env with net := (netPacket buf s).env.net }, nfIdle := (netPacket buf s).nfIdle } := by
  unfold netPacket
  split
  · rfl
  · simp only [raise_eq]; rfl

/-- No test of a datagram is a fatal error (42 R183). -/
theorem datagramError_not_fatal {buf : List Byte} {e : Error} (h : datagramError buf = some e) :
    e.fatal = false ∧ e.logged = true := by
  unfold datagramError at h
  repeat' split at h
  all_goals cases h
  all_goals exact ⟨rfl, rfl⟩

theorem netNoData_frame (s : State) :
    netNoData s = { s with log := (netNoData s).log, env := { s.env with net := (netNoData s).env.net },
                           nfIdle := (netNoData s).nfIdle } := by
  unfold netNoData
  dsimp only
  split
  · simp only [raise_eq]; rfl
  · rfl

theorem netRead_frame (s : State) :
    (netRead s).2 = { s with env := { s.env with net := (netRead s).2.env.net },
                             sched := { s.sched with draws := (netRead s).2.sched.draws } } := by
  unfold netRead
  dsimp only
  split <;> rfl

theorem netPoll_frame (s : State) :
    netPoll s = { s with inbox := (netPoll s).inbox, log := (netPoll s).log, nfIdle := (netPoll s).nfIdle,
                         env := { s.env with net := (netPoll s).env.net },
                         sched := { s.sched with draws := (netPoll s).sched.draws } } := by
  unfold netPoll
  split
  · rw [netNoData_frame]
  · dsimp only
    unfold netPacket
    split
    · rw [netRead_frame]; rfl
    · next e he => rw [raise_of_logged (datagramError_not_fatal he).2 (datagramError_not_fatal he).1, netRead_frame]; rfl

theorem readPin_frame (p : Nat) (s : State) :
    (readPin p s).2 = { s with sched := { s.sched with draws := (readPin p s).2.sched.draws } } := by
  unfold readPin; split <;> rfl

theorem diPoll_frame (s : State) :
    diPoll s = { s with di := (diPoll s).di, inbox := (diPoll s).inbox,
                        sched := { s.sched with draws := (diPoll s).sched.draws } } := by
  unfold diPoll samplePin
  split
  · dsimp only
    split <;> rw [readPin_frame] <;> rfl
  · rfl

/-! ## The send paths -/

theorem serialSend_frame (s : State) : serialSend s = { s with serTx := s.serTx ++ outboxPacket s } := rfl

theorem netSend_frame (s : State) :
    netSend s = { s with env := { s.env with net := { s.env.net with sent := s.env.net.sent ++ [outboxPacket s] } } } := rfl

/-! ## The handlers -/

theorem namesChannel_eq (s : State) (c : Byte) : namesChannel s c = true ↔ c.toNat < s.cfg.numChannels := by
  simp [namesChannel]

theorem namesGroup_eq (s : State) (g : Byte) : namesGroup s g = true ↔ g.toNat + 3 ≤ s.cfg.numChannels := by
  simp [namesGroup]

theorem setGroup_frame (g : Nat) (r1 r2 r3 : Byte) (s : State) :
    setGroup g r1 r2 r3 s = { s with ch := (setGroup g r1 r2 r3 s).ch, bam := (setGroup g r1 r2 r3 s).bam
                                     rb := (setGroup g r1 r2 r3 s).rb
                                     sched := { s.sched with arrivals := s.sched.arrivals.drop 2 } } := by
  ext1 <;> simp [setGroup, setLevel]

theorem commitBytes_frame (a : Nat) (olds news : List Byte) (s : State) :
    commitBytes a olds news s = { s with env := { s.env with nvs := (commitBytes a olds news s).env.nvs
                                                             nvsWrites := (commitBytes a olds news s).env.nvsWrites } } := by
  induction olds generalizing a news s with
  | nil => rfl
  | cons o olds ih =>
    cases news with
    | nil => rfl
    | cons n news =>
      rw [commitBytes, ih, commitByte]
      split <;> rfl

/-- Every meaning answers a next state. -/
theorem exec_next (i : Instr) (s : State) : ∃ t, exec i s = .next t := by
  cases i <;> exact ⟨_, rfl⟩

end Sys2Proof.Machine
end

