-- ==== Sys2Proof/Laws/PerInstr.lean ====
section
/-! SUPPORT. One statement about every instruction as syntax: its packet on the wire (30 R90, R91, R97). -/

namespace Sys2Proof.Laws.Wire

/-- The packet is START, a code its direction knows, the data bytes and the checksum; the code alone fixes the length, the table's
plus three, and no more than eight data bytes are used. -/
def Statement (i : Instr) : Prop :=
  encode i = START :: i.code :: (i.data ++ [checksum START i.code i.data]) ∧
  knownCode i.direction i.code = true ∧
  i.data.length = dataLength i.direction i.code ∧
  (encode i).length = dataLength i.direction i.code + 3 ∧
  i.data.length ≤ MAX_DATA

theorem test : Statement .test := by unfold Statement; decide

theorem setch (channel value : Byte) : Statement (.setch channel value) :=
  ⟨rfl, rfl, rfl, rfl, Nat.le_of_ble_eq_true rfl⟩

theorem fade (channel target speed : Byte) : Statement (.fade channel target speed) :=
  ⟨rfl, rfl, rfl, rfl, Nat.le_of_ble_eq_true rfl⟩

theorem setgrp (groupStart r g b : Byte) : Statement (.setgrp groupStart r g b) :=
  ⟨rfl, rfl, rfl, rfl, Nat.le_of_ble_eq_true rfl⟩

theorem setip (ip0 ip1 ip2 ip3 : Byte) : Statement (.setip ip0 ip1 ip2 ip3) :=
  ⟨rfl, rfl, rfl, rfl, Nat.le_of_ble_eq_true rfl⟩

theorem reboot : Statement .reboot := by unfold Statement; decide

theorem resp (status : Half) : Statement (.resp status) :=
  ⟨rfl, rfl, rfl, rfl, Nat.le_of_ble_eq_true rfl⟩

end Sys2Proof.Laws.Wire
end

