-- ==== Sys2Proof/Laws/Ring.lean ====
section
/-! SUPPORT. The ring buffer as a queue: its count without the modulus, and everything a push or a pop does (41 R151 to R153,
10 R31). -/

namespace Sys2Proof.Machine

/-- The modulus of a number below twice the capacity. -/
theorem Ring.mod_lt_twice {x cap : Nat} (h : x < 2 * cap) : x % cap = if x < cap then x else x - cap := by
  split
  · next h => exact Nat.mod_eq_of_lt h
  · rw [Nat.mod_eq_sub_mod (by omega), Nat.mod_eq_of_lt (by omega)]

/-- `rb_available` (41 R153) without the modulus. -/
theorem Ring.available_eq {cap : Nat} {r : Ring} (h : RingOk cap r) :
    r.available cap = if r.full then cap else if r.tail ≤ r.head then r.head - r.tail else r.head + cap - r.tail := by
  have h1 := h.head_lt; have h2 := h.tail_lt
  rw [Ring.available]
  split
  · rfl
  · rw [Nat.mod_eq_of_lt h2, Ring.mod_lt_twice (by omega)]; split <;> split <;> omega

/-- The bytes held are as many as `rb_available` says. -/
theorem Ring.contents_length (cap : Nat) (r : Ring) : (r.contents cap).length = r.available cap := by
  simp [Ring.contents]

/-- No more than RB_CAP bytes are held. -/
theorem Ring.available_le {cap : Nat} {r : Ring} (h : RingOk cap r) : r.available cap ≤ cap := by
  have h1 := h.head_lt; have h2 := h.tail_lt
  rw [Ring.available_eq h]; split
  · omega
  · split <;> omega

/-- The count is RB_CAP exactly when the ring is full (10 R31). -/
theorem Ring.available_full {cap : Nat} {r : Ring} (h : RingOk cap r) : r.available cap = cap ↔ r.full = true := by
  have h1 := h.head_lt; have h2 := h.tail_lt
  rw [Ring.available_eq h]
  constructor
  · intro e
    by_contra hf
    rw [if_neg hf] at e
    split at e <;> omega
  · intro e; rw [if_pos e]

/-- The count is 0 exactly when the ring is empty (10 R31). -/
theorem Ring.available_empty {cap : Nat} {r : Ring} (h : RingOk cap r) : r.available cap = 0 ↔ r.empty = true := by
  have h1 := h.head_lt; have h2 := h.tail_lt
  rw [Ring.available_eq h]
  constructor
  · intro e
    split at e
    · omega
    · next hf =>
      have : r.head = r.tail := by split at e <;> omega
      rcases h.of_equal this with h | h
      · exact h
      · exact absurd h hf
  · intro e
    have := h.of_empty e
    rw [this.2, this.1]; simp

/-- All a push does to a ring with room (41 R151). -/
theorem Ring.push_room {cap : Nat} {r : Ring} {b : Byte} (h : RingOk cap r) (hf : r.full = false) :
    (r.push cap b).1 = true ∧ RingOk cap (r.push cap b).2 ∧ (r.push cap b).2.contents cap = r.contents cap ++ [b] := by
  have h1 := h.head_lt; have h2 := h.tail_lt
  have hpush : r.push cap b = (true, { r with mem := r.mem.write r.head b, head := (r.head + 1) % cap, empty := false, full := fullAfterPush r ((r.head + 1) % cap) }) := by
    rw [Ring.push, hf, Nat.mod_eq_of_lt h1]; rfl
  have hm := @Ring.mod_lt_twice (r.head + 1) cap (by omega)
  have hfull : fullAfterPush r ((r.head + 1) % cap) = decide ((r.head + 1) % cap = r.tail) := by
    rw [fullAfterPush]; split
    · next h => simp [h]
    · next h => simp [h, hf]
  have ok : RingOk cap (r.push cap b).2 := by
    rw [hpush, hfull]
    constructor
    · exact Nat.mod_lt _ (by omega)
    · exact h2
    · simp
    · intro e; simpa using e
    · intro e; simpa using e
    · intro e; right; simpa using e
    · exact Memory.wf_write h.mem_wf _ _
    · intro x hx
      rcases Memory.mem_write hx with hx | hx
      · exact h.cells_lt x hx
      · rw [hx]; exact h1
  refine ⟨by rw [hpush], ok, ?_⟩
  have hc : (r.push cap b).2.available cap = r.available cap + 1 := by
    rw [Ring.available_eq ok, Ring.available_eq h, hpush, hfull, hf]
    simp only [decide_eq_true_eq, Bool.false_eq_true, if_false]
    rw [hm]
    split <;> split <;> (try split) <;> (try split) <;> (try omega)
  have hpos : (r.tail + r.available cap) % cap = r.head := by
    rw [Ring.available_eq h, hf]; simp only [Bool.false_eq_true, if_false]
    split
    · rw [Nat.mod_eq_of_lt (by omega)]; omega
    · rw [Ring.mod_lt_twice (by omega)]; split <;> omega
  have hlt : r.available cap < cap := lt_of_le_of_ne (Ring.available_le h) (fun e => by rw [Ring.available_full h, hf] at e; cases e)
  rw [Ring.contents, hc, List.range_succ, List.map_append]
  congr 1
  · apply List.map_congr_left
    intro j hj
    rw [List.mem_range] at hj
    rw [hpush]
    have hne : r.head ≠ (r.tail + j) % cap := by
      rw [← hpos]; rw [Ring.mod_lt_twice (x := r.tail + j) (by omega), Ring.mod_lt_twice (by omega)]
      split <;> split <;> omega
    dsimp only
    rw [Memory.write]; split
    · rw [Memory.read_erase h.mem_wf, if_neg hne]
    · rw [Memory.read_insert, if_neg hne]
  · rw [hpush]; simp only [List.map_cons, List.map_nil]
    rw [hpos, Memory.write]; split
    · next hv => rw [Memory.read_erase h.mem_wf, if_pos rfl, hv]
    · rw [Memory.read_insert, if_pos rfl]

/-- All a pop does to a ring that holds a byte (41 R152). -/
theorem Ring.pop_held {cap : Nat} {r : Ring} (h : RingOk cap r) (he : r.empty = false) :
   r.contents cap = (r.pop cap).1 :: (r.pop cap).2.contents cap ∧ RingOk cap (r.pop cap).2 := by
  have h1 := h.head_lt; have h2 := h.tail_lt
  have hpop : r.pop cap = (r.mem.read r.tail, { r with tail := (r.tail + 1) % cap, full := false, empty := emptyAfterPop r ((r.tail + 1) % cap) }) := by
    rw [Ring.pop, he, Nat.mod_eq_of_lt h2]; rfl
  have hm := @Ring.mod_lt_twice (r.tail + 1) cap (by omega)
  have hemp : emptyAfterPop r ((r.tail + 1) % cap) = decide ((r.tail + 1) % cap = r.head) := by
    rw [emptyAfterPop]; split
    · next h => simp [h]
    · next h => simp [h, he]
  have ok : RingOk cap (r.pop cap).2 := by
    rw [hpop, hemp]
    constructor
    · exact h1
    · exact Nat.mod_lt _ (by omega)
    · intro e; simp at e; simp [e]
    · simp
    · intro e; simp only [ne_eq] at e; simp; omega
    · intro e; left; simp; exact e.symm
    · exact h.mem_wf
    · exact h.cells_lt
  refine ⟨?_, ok⟩
  have hc : r.available cap = (r.pop cap).2.available cap + 1 := by
    rw [Ring.available_eq ok, Ring.available_eq h, hpop]
    simp only [Bool.false_eq_true, if_false]
    rw [hm]
    have hq := h.of_equal; have hf := h.of_full
    rw [he] at hq
    simp only [Bool.false_eq_true, false_or] at hq
    by_cases hfull : r.full = true
    · have := (hf hfull).1
      rw [if_pos hfull]; split <;> split <;> omega
    · have : r.head ≠ r.tail := fun e => hfull (hq e)
      rw [if_neg hfull]; split <;> split <;> split <;> omega
  rw [Ring.contents, hc, List.range_succ_eq_map, List.map_cons, List.map_map]
  congr 1
  · rw [hpop, Nat.add_zero, Nat.mod_eq_of_lt h2]
  · rw [Ring.contents]
    apply List.map_congr_left
    intro j hj
    rw [hpop]
    simp only [Function.comp]
    congr 1
    rw [Nat.mod_add_mod]; congr 1; omega

/-- A push that is rejected changes nothing (41 R151). -/
theorem Ring.push_full {cap : Nat} {r : Ring} (b : Byte) (h : r.full = true) : r.push cap b = (false, r) := by
  rw [Ring.push, h]; rfl

/-- A pop of an empty ring changes nothing and gives 0x00 (41 R152). -/
theorem Ring.pop_empty {cap : Nat} {r : Ring} (h : r.empty = true) : r.pop cap = (0x00, r) := by
  rw [Ring.pop, h]; rfl

/-- Every push keeps the ring's invariant. -/
theorem RingOk.push {cap : Nat} {r : Ring} (h : RingOk cap r) (b : Byte) : RingOk cap (r.push cap b).2 := by
  cases hf : r.full
  · exact (Ring.push_room h hf).2.1
  · rw [Ring.push_full b hf]; exact h

/-- Every pop keeps the ring's invariant. -/
theorem RingOk.pop {cap : Nat} {r : Ring} (h : RingOk cap r) : RingOk cap (r.pop cap).2 := by
  cases he : r.empty
  · exact (Ring.pop_held h he).2
  · rw [Ring.pop_empty he]; exact h

end Sys2Proof.Machine
end

