-- ==== Sys2Proof/Laws/Steps.lean ====
section
/-! SUPPORT. For each handler, for dispatch, for the arbitrator and for a `Poll`: everything it can do, once. -/

namespace Sys2Proof.Machine

/-! ## Answers and levels -/

/-- The OK packet, byte by byte (30 R92). -/
theorem respond_ok_packet (s : State) : outboxPacket (respond STATUS_OK s) = [0x41, 0x01, 0x00, 0x00, 0x01] := by
  rw [respond_packet]; rfl

/-- The ERROR packet, byte by byte (30 R92). -/
theorem respond_error_packet (s : State) : outboxPacket (respond STATUS_ERROR s) = [0x41, 0x01, 0x00, 0x01, 0x02] := by
  rw [respond_packet]; rfl

/-- A changed list, entry by entry. -/
theorem getElem_modify_of_some {α} {l : List α} {k c : Nat} {f : α → α} {x : α} (h : l[k]? = some x) : (l.modify c f)[k]? = some (if k = c then f x else x) := by
  rw [List.getElem?_modify, h]
  by_cases e : c = k
  · simp [e]
  · simp [e, Ne.symm e]

/-- Setting a level keeps whatever does not depend on `current` and `target`. -/
theorem setLevel_map_ch {α} (f : Channel → α) (hf : ∀ x v, f { x with current := v, target := v } = f x) (c v) (s : State) :
   (setLevel c v s).ch.map f = s.ch.map f := by
  simp only [setLevel, State.setCh_ch]
  apply List.ext_getElem?
  intro i
  simp only [List.getElem?_map, List.getElem?_modify]
  cases s.ch[i]? <;> simp
  split <;> simp [hf]

/-! ## The store -/

/-- A read after a write (20 R61, R62). -/
theorem Memory.read_write (m : Memory) (h : m.wf = true) (a : Nat) (v : Byte) (b : Nat) : (m.write a v).read b = if b = a then v else m.read b := by
  rw [Memory.write]
  split
  · next hv => subst hv; rw [Memory.read_erase h]; simp [eq_comm]
  · rw [Memory.read_insert]; simp [eq_comm]

/-- Committing a byte keeps the canonical form of the store. -/
theorem commitByte_wf (a : Nat) (o n : Byte) (s : State) (h : s.env.nvs.wf = true) : (commitByte a o n s).env.nvs.wf = true := by
  unfold commitByte nvsWriteByte; split
  · exact Memory.wf_write h a n
  · exact h

/-- What the store reads as after a byte was committed (40 R130). -/
theorem commitByte_read (a : Nat) (n : Byte) (s : State) (h : s.env.nvs.wf = true) (o : Byte) (ho : s.env.nvs.read a = o) (b : Nat) :
    (commitByte a o n s).env.nvs.read b = if b = a then n else s.env.nvs.read b := by
  unfold commitByte nvsWriteByte; split
  · exact Memory.read_write _ h a n b
  · next hh => split
               · next e => subst e; rw [ho]; simpa using hh
               · rfl

/-- A byte is written exactly where it differs (40 R130). -/
theorem commitByte_writes (a : Nat) (o n : Byte) (s : State) :
    (commitByte a o n s).env.nvsWrites = s.env.nvsWrites ++ [(a,n)].filter (fun _ => o != n) := by
  unfold commitByte nvsWriteByte; split
  · next h => simp [h]
  · next h => simp at h; simp [h]

/-! ## The handlers -/

/-- What routing can write (43 R214). -/
theorem route_frame (s : State) : route s = { s with serTx := (route s).serTx, log := (route s).log, halted := (route s).halted, env := { s.env with net := { s.env.net with sent := (route s).env.net.sent } } } := by
  unfold route; split <;> rfl

/-- What any handler can write. -/
theorem exec_frame {i : Instr} {s t : State} (h : exec i s = .next t) :
    t = { s with ch := t.ch, bam := t.bam, rb := t.rb, outbox := t.outbox, ipLatch := t.ipLatch, halted := t.halted, serTx := t.serTx, log := t.log,
                 env := { s.env with net := { s.env.net with sent := t.env.net.sent }, nvs := t.env.nvs, nvsWrites := t.env.nvsWrites },
                 sched := { s.sched with arrivals := t.sched.arrivals } } := by
  cases i with
  | test => cases h; rfl
  | setch c v => replace h : execSetch c v s = .next t := h
                 rw [execSetch] at h; split at h <;> cases h <;> rfl
  | fade c tg sp => replace h : execFade c tg sp s = .next t := h
                    rw [execFade] at h; split at h <;> cases h <;> rfl
  | setgrp g r1 r2 r3 =>
    replace h : execSetgrp g r1 r2 r3 s = .next t := h
    rw [execSetgrp] at h; split at h <;> cases h
    · rw [respond_frame, setGroup_frame]
    · rfl
  | setip a b c d =>
    replace h : execSetip a b c d s = .next t := h
    rw [execSetip] at h; split at h
    · cases h; rfl
    · split at h
      · cases h; rw [respond_frame, commitBytes_frame]; rfl
      · cases h; rfl
  | reboot => cases h; rfl
  | resp st =>
    replace h : execResp st s = .next t := h
    cases h; rw [route_frame]; rfl

/-- With no interrupt listed a handler leaves the ring and the generator. -/
theorem exec_quiet {i : Instr} {s t : State} (ha : s.sched.arrivals = []) (h : exec i s = .next t) : t.rb = s.rb ∧ t.bam = s.bam := by
  cases i with
  | test => cases h; exact ⟨rfl, rfl⟩
  | setch c v => replace h : execSetch c v s = .next t := h
                 rw [execSetch] at h; split at h <;> cases h <;> exact ⟨rfl, rfl⟩
  | fade c tg sp => replace h : execFade c tg sp s = .next t := h
                    rw [execFade] at h; split at h <;> cases h <;> exact ⟨rfl, rfl⟩
  | setgrp g r1 r2 r3 =>
    replace h : execSetgrp g r1 r2 r3 s = .next t := h
    rw [execSetgrp] at h; split at h <;> cases h
    · rw [setGroup, boundary_none (s := setLevel g.toNat r1 s) ha, boundary_none (by exact ha)]; exact ⟨rfl, rfl⟩
    · exact ⟨rfl, rfl⟩
  | setip a b c d =>
    replace h : execSetip a b c d s = .next t := h
    rw [execSetip] at h; split at h
    · cases h; exact ⟨rfl, rfl⟩
    · split at h
      · cases h; rw [respond_frame, commitBytes_frame]; exact ⟨rfl, rfl⟩
      · cases h; exact ⟨rfl, rfl⟩
  | reboot => cases h; exact ⟨rfl, rfl⟩
  | resp st =>
    replace h : execResp st s = .next t := h
    cases h; rw [route_frame]; exact ⟨rfl, rfl⟩

/-- A command's handler sends nothing and, but for REBOOT, halts nothing: the arbitrator sends the answer (43 R212). -/
theorem exec_command {i : Instr} {s t : State} (hd : i.direction = .toDevice) (h : exec i s = .next t) :
    t.serTx = s.serTx ∧ t.env.net.sent = s.env.net.sent ∧ (i ≠ .reboot → t.halted = s.halted) ∧ answers i = decide (i ≠ .reboot) := by
  cases i with
  | resp st => cases hd
  | test => cases h; exact ⟨rfl, rfl, fun _ => rfl, rfl⟩
  | reboot => cases h; exact ⟨rfl, rfl, fun e => absurd rfl e, rfl⟩
  | setch c v => replace h : execSetch c v s = .next t := h
                 rw [execSetch] at h; split at h <;> cases h <;> exact ⟨rfl, rfl, fun _ => rfl, rfl⟩
  | fade c tg sp => replace h : execFade c tg sp s = .next t := h
                    rw [execFade] at h; split at h <;> cases h <;> exact ⟨rfl, rfl, fun _ => rfl, rfl⟩
  | setgrp g r1 r2 r3 =>
    replace h : execSetgrp g r1 r2 r3 s = .next t := h
    rw [execSetgrp] at h; split at h <;> cases h
    · rw [respond_frame, setGroup_frame]; exact ⟨rfl, rfl, fun _ => rfl, rfl⟩
    · exact ⟨rfl, rfl, fun _ => rfl, rfl⟩
  | setip a b c d =>
    replace h : execSetip a b c d s = .next t := h
    rw [execSetip] at h; split at h
    · cases h; exact ⟨rfl, rfl, fun _ => rfl, rfl⟩
    · split at h
      · cases h; rw [respond_frame, commitBytes_frame]; exact ⟨rfl, rfl, fun _ => rfl, rfl⟩
      · cases h; exact ⟨rfl, rfl, fun _ => rfl, rfl⟩

/-! ## Dispatch -/

/-- A packet has one code and one data part. -/
theorem packet_inj {c c' : Byte} {d d' : List Byte} (h : packet c d = packet c' d') : c = c' ∧ d = d' := by
  simp only [packet, List.cons.injEq] at h
  obtain ⟨-, rfl, h⟩ := h
  exact ⟨rfl, (List.append_inj' h rfl).1⟩

/-- No command has more than four operands (30 R98). -/
theorem data_length_le (i : Instr) : i.data.length ≤ 4 := by cases i <;> simp [Instr.data]

/-- A code outside the table is no instruction (40 R121). -/
theorem instrOfCommand_none {c a b d e : Byte} (h : hasCommand c = false) : instrOfCommand c a b d e = none := by
  have : ∀ k : Byte, hasCommand k = true → c ≠ k := by rintro k hk rfl; rw [h] at hk; cases hk
  rw [instrOfCommand, if_neg (this _ rfl), if_neg (this _ rfl), if_neg (this _ rfl), if_neg (this _ rfl), if_neg (this _ rfl), if_neg (this _ rfl)]

/-- the inbox's instruction -/
theorem inboxInstr_of {s : State} {i : Instr} (hc : s.inbox.code = i.code) (hd : s.inbox.payload = i.data) (hl : s.inbox.len ≤ s.inbox.data.length) (hi : i.direction = .toDevice) :
   inboxInstr s = some i ∧ missingOperands s = 0 := by
  have hlen : s.inbox.len = i.data.length := by
    rw [← hd, Command.payload, List.length_take, Nat.min_eq_left hl]
  have hop : ∀ k < i.data.length, operand s k = i.data.getD k 0 := by
    intro k hk
    rw [operand, if_pos (by omega), ← hd, Command.payload]
    simp [List.getD, show k < s.inbox.len by omega]
  unfold missingOperands inboxInstr
  rw [hc, hlen]
  cases i with
  | test => exact ⟨rfl, rfl⟩
  | reboot => exact ⟨rfl, rfl⟩
  | resp st => cases hi
  | setch a b => rw [hop 0 (by simp [Instr.data]), hop 1 (by simp [Instr.data])]; exact ⟨rfl, rfl⟩
  | fade a b c => rw [hop 0 (by simp [Instr.data]), hop 1 (by simp [Instr.data]), hop 2 (by simp [Instr.data])]; exact ⟨rfl, rfl⟩
  | setgrp a b c d => rw [hop 0 (by simp [Instr.data]), hop 1 (by simp [Instr.data]), hop 2 (by simp [Instr.data]), hop 3 (by simp [Instr.data])]; exact ⟨rfl, rfl⟩
  | setip a b c d => rw [hop 0 (by simp [Instr.data]), hop 1 (by simp [Instr.data]), hop 2 (by simp [Instr.data]), hop 3 (by simp [Instr.data])]; exact ⟨rfl, rfl⟩

/-- Dispatch of a whole command runs its handler (40 R120). -/
theorem dispatch_of {s : State} {i : Instr} (hw : s.cfg.mailboxWired = true) (h : inboxInstr s = some i) (hm : missingOperands s = 0) :
   dispatch s = andThen (exec i s) fun t => .next ⟨t, answers i⟩ := by
  unfold dispatch
  rw [if_neg (by simp [hw]), h, hm]; rfl

/-- Everything dispatch can do. -/
theorem dispatch_cases (s : State) :
    (s.cfg.mailboxWired = false ∧ dispatch s = .next ⟨raise .fatalConfig s, false⟩) ∨
    (s.cfg.mailboxWired = true ∧ inboxInstr s = none ∧ dispatch s = .next ⟨s, false⟩) ∨
    (∃ i t, s.cfg.mailboxWired = true ∧ inboxInstr s = some i ∧ exec i (tookDraws (missingOperands s) s) = .next t ∧ dispatch s = .next ⟨t, answers i⟩) := by
  unfold dispatch
  by_cases hw : s.cfg.mailboxWired = false
  · left; rw [if_pos hw]; exact ⟨hw, rfl⟩
  · have hw' : s.cfg.mailboxWired = true := by simpa using hw
    right
    rw [if_neg hw]
    cases hi : inboxInstr s with
    | none => left; exact ⟨hw', rfl, rfl⟩
    | some i =>
      right
      obtain ⟨t, ht⟩ := exec_next i (tookDraws (missingOperands s) s)
      exact ⟨i, t, hw', rfl, ht, by dsimp only; rw [ht]; rfl⟩

/-- Everything a dispatch can write. -/
theorem dispatch_frame {s : State} {d : Dispatched} (h : dispatch s = .next d) :
    d.state = { s with ch := d.state.ch, bam := d.state.bam, rb := d.state.rb, outbox := d.state.outbox, ipLatch := d.state.ipLatch, halted := d.state.halted, serTx := d.state.serTx, log := d.state.log,
                       env := { s.env with net := { s.env.net with sent := d.state.env.net.sent }, nvs := d.state.env.nvs, nvsWrites := d.state.env.nvsWrites },
                       sched := { s.sched with arrivals := d.state.sched.arrivals, draws := d.state.sched.draws } } := by
  rcases dispatch_cases s with ⟨-, e⟩ | ⟨-, -, e⟩ | ⟨i, t, -, -, ht, e⟩ <;> rw [e] at h <;> cases h
  · rfl
  · rfl
  · rw [exec_frame ht]; rfl

/-- With no interrupt listed a dispatch leaves the ring and the generator. -/
theorem dispatch_quiet {s : State} {d : Dispatched} (ha : s.sched.arrivals = []) (h : dispatch s = .next d) : d.state.rb = s.rb ∧ d.state.bam = s.bam := by
  rcases dispatch_cases s with ⟨-, e⟩ | ⟨-, -, e⟩ | ⟨i, t, -, -, ht, e⟩ <;> rw [e] at h <;> cases h
  · exact ⟨rfl, rfl⟩
  · exact ⟨rfl, rfl⟩
  · exact exec_quiet (s := tookDraws (missingOperands s) s) ha ht

/-- Everything the Processing branch can do. -/
theorem arbProcessing_cases {s t : State} (h : arbProcessing s = .next t) :
   ∃ d, dispatch s = .next d ∧
    ((d.state.isRunning = false ∧ t = d.state) ∨
     (d.state.isRunning = true ∧ ∃ u, (u = d.state ∨ u = route d.state) ∧ ((u.isRunning = true ∧ t = clearMailboxes u) ∨ (u.isRunning = false ∧ t = u)))) := by
  rw [arbProcessing, andThen_eq_next] at h
  obtain ⟨d, hd, h⟩ := h
  refine ⟨d, hd, ?_⟩
  by_cases hr : d.state.isRunning = true
  · rw [if_pos hr] at h
    right; refine ⟨hr, if d.due then route d.state else d.state, ?_, ?_⟩
    · cases d.due <;> simp
    · by_cases hu : (if d.due then route d.state else d.state).isRunning = true
      · dsimp only at h; rw [if_pos hu] at h; cases h; exact .inl ⟨hu, rfl⟩
      · dsimp only at h; rw [if_neg hu] at h; cases h; exact .inr ⟨by simpa using hu, rfl⟩
  · rw [if_neg hr] at h; cases h
    exact .inl ⟨by simpa using hr, rfl⟩

/-! ## The sourcers -/

theorem sfByte_source (b : Byte) (s : State) : (sfByte b s).inbox.source = s.inbox.source ∨ (sfByte b s).inbox.source = .serial := by
  unfold sfByte sfIdleByte sfCodeByte sfDataByte sfChecksumByte
  split
  · split <;> exact .inl rfl
  · split <;> exact .inl rfl
  · exact .inl rfl
  · dsimp only; split
    · exact .inr rfl
    · exact .inl rfl

/-- The serial sourcer leaves the inbox's source or makes it Serial. -/
theorem serialPoll_source (s : State) : (serialPoll s).inbox.source = s.inbox.source ∨ (serialPoll s).inbox.source = .serial := by
  unfold serialPoll
  dsimp only
  split
  · left; rw [sfNoByte_frame]; simp
  · rcases sfByte_source (((boundary s).rb.pop (boundary s).cfg.rbCap).1) (((boundary s).setRb ((boundary s).rb.pop (boundary s).cfg.rbCap).2).setSf { ((boundary s).setRb ((boundary s).rb.pop (boundary s).cfg.rbCap).2).sf with idle := 0 }) with h | h
    · left; rw [h]; simp
    · right; exact h

/-- The network sourcer leaves the inbox's source or makes it Network. -/
theorem netPoll_source (s : State) : (netPoll s).inbox.source = s.inbox.source ∨ (netPoll s).inbox.source = .network := by
  unfold netPoll
  split
  · left; rw [netNoData_frame]
  · dsimp only; unfold netPacket; split
    · exact .inr rfl
    · left; rw [raise_eq, netRead_frame]; rfl

/-- The pin sourcer leaves the inbox's source or makes it DigitalInput. -/
theorem diPoll_source (s : State) : (diPoll s).inbox.source = s.inbox.source ∨ (diPoll s).inbox.source = .digitalInput := by
  unfold diPoll samplePin
  split
  · dsimp only; split
    · exact .inr rfl
    · left; rw [readPin_frame]; rfl
  · exact .inl rfl

/-- Everything the `Idle` branch can do with an empty inbox (43 R211). -/
theorem arbIdle_spec (s : State) (hi : s.inbox.source = .none) : ∃ t, arbIdle s = (if t.inbox.source ≠ .none then t.setArb { t.arb with state := .processing } else t) ∧
   t.arb = { s.arb with rr := s.arb.rr.next } ∧ 
      (s.arb.rr ≠ .serial → t.sf = s.sf ∧ t.rb = s.rb ∧ t.inbox.source ≠ .serial) ∧
      (s.arb.rr ≠ .network → t.nfIdle = s.nfIdle ∧ t.env = s.env ∧ t.inbox.source ≠ .network) ∧
      (s.arb.rr ≠ .digitalInput → t.di = s.di ∧ t.inbox.source ≠ .digitalInput) ∧
      t.ch = s.ch ∧ t.outbox = s.outbox ∧ t.ipLatch = s.ipLatch ∧ t.halted = s.halted ∧ t.serTx = s.serTx := by
  refine ⟨_, rfl, ?_⟩
  generalize hs0 : s.setArb { s.arb with rr := s.arb.rr.next } = s0
  have : s0.arb = { s.arb with rr := s.arb.rr.next } ∧ s0.inbox = s.inbox ∧ s0.sf = s.sf ∧ s0.rb = s.rb ∧ s0.nfIdle = s.nfIdle ∧ s0.env = s.env ∧ s0.di = s.di ∧ s0.ch = s.ch ∧
    s0.outbox = s.outbox ∧ s0.ipLatch = s.ipLatch ∧ s0.halted = s.halted ∧ s0.serTx = s.serTx := by
    subst hs0; exact ⟨rfl, rfl, rfl, rfl, rfl, rfl, rfl, rfl, rfl, rfl, rfl, rfl⟩
  obtain ⟨e0, e1, e2, e3, e4, e5, e6, e7, e8, e9, e10, e11⟩ := this
  clear hs0
  rw [← e0, ← e2, ← e3, ← e4, ← e5, ← e6, ← e7, ← e8, ← e9, ← e10, ← e11]
  rw [← e1] at hi
  cases hrr : s.arb.rr
  · have hsrc := diPoll_source s0
    rw [hi] at hsrc
    simp only [pollSourcer]
    have hx : (diPoll s0).inbox.source ≠ .serial ∧ (diPoll s0).inbox.source ≠ .network := by
      rcases hsrc with h | h <;> rw [h] <;> decide
    refine ⟨?_, fun _ => ⟨?_, ?_, hx.1⟩, fun _ => ⟨?_, ?_, hx.2⟩, fun h => absurd rfl h, ?_, ?_, ?_, ?_, ?_⟩ <;> rw [diPoll_frame]
  · have hsrc := serialPoll_source s0
    rw [hi] at hsrc
    simp only [pollSourcer]
    have hx : (serialPoll s0).inbox.source ≠ .network ∧ (serialPoll s0).inbox.source ≠ .digitalInput := by
      rcases hsrc with h | h <;> rw [h] <;> decide
    refine ⟨?_, fun h => absurd rfl h, fun _ => ⟨?_, ?_, hx.1⟩, fun _ => ⟨?_, hx.2⟩, ?_, ?_, ?_, ?_, ?_⟩ <;> rw [serialPoll_frame]
  · have hsrc := netPoll_source s0
    rw [hi] at hsrc
    simp only [pollSourcer]
    have hx : (netPoll s0).inbox.source ≠ .serial ∧ (netPoll s0).inbox.source ≠ .digitalInput := by
      rcases hsrc with h | h <;> rw [h] <;> decide
    refine ⟨?_, fun _ => ⟨?_, ?_, hx.1⟩, fun h => absurd rfl h, fun _ => ⟨?_, hx.2⟩, ?_, ?_, ?_, ?_, ?_⟩ <;> rw [netPoll_frame]

/-! ## Steps -/

/-- Filling a record keeps it well formed. -/
theorem commandOk_fill {c : Command} {code : Byte} {d : List Byte} {src} (h : commandOk c = true) (hd : d.length ≤ 8) : commandOk { c.fill code d with source := src } = true := by
  simp only [commandOk, Bool.and_eq_true, beq_iff_eq, decide_eq_true_eq, MAX_DATA] at *
  refine ⟨?_, hd⟩
  show (c.fill code d).data.length = 8
  rw [fill_data_length _ _ _ (by omega)]; exact h.1

/-- The inbox holds no more than its eight bytes. -/
theorem shape_inbox {s : State} (h : s.shape = true) : s.inbox.len ≤ s.inbox.data.length := by
  simp only [State.shape, Bool.and_eq_true, commandOk, beq_iff_eq, decide_eq_true_eq] at h
  omega

/-- The step of a well-formed machine is its next listed move. -/
theorem step_of_steppable {s : State} {e : Event} {later : List Event} (hs : Steppable s) (he : s.sched.events = e :: later) :
    step s = runEvent e (s.setSched { s.sched with events := later }) := by
  unfold step stepChecked
  rw [if_neg (by simp [hs.parameters]), if_neg (by simp [hs.bindings]), if_neg (by simp [hs.shape])]
  unfold nextEvent; rw [he]

/-- A `Poll` in `Processing` over a whole command runs its handler, then `afterCommand` (43 R210, R212). -/
theorem poll_of {s : State} {i : Instr} {arr} {later} (hr : s.halted = .running) (ha : s.arb.state = .processing) (hw : s.cfg.mailboxWired = true)
   (h : inboxInstr (beginPoll arr later s) = some i) (hm : missingOperands (beginPoll arr later s) = 0)  :
   poll arr (s.setSched { s.sched with events := later }) = andThen (exec i (beginPoll arr later s)) fun t => .next (afterCommand i t) := by
  have e : (s.setSched { s.sched with events := later }).setSched { (s.setSched { s.sched with events := later }).sched with arrivals := arr } = beginPoll arr later s := rfl
  unfold poll
  rw [e]
  unfold pollBody
  rw [if_pos (show (beginPoll arr later s).isRunning = true by simp [State.isRunning, beginPoll, hr])]
  unfold arbStep
  rw [show (beginPoll arr later s).arb.state = .processing from ha]
  dsimp only
  unfold arbProcessing
  rw [dispatch_of (by exact hw) h hm]
  obtain ⟨t, ht⟩ := exec_next i (beginPoll arr later s)
  rw [ht]
  simp only [andThen_next]
  unfold afterCommand
  by_cases hrun : t.isRunning = true
  · rw [if_pos hrun, if_pos hrun]
    simp only [andThen_next]
    by_cases hu : (if answers i = true then route t else t).isRunning = true
    · rw [if_pos hu, if_pos hu, if_pos (by simpa [clearMailboxes, State.isRunning] using hu)]
    · rw [if_neg hu, if_neg hu, if_neg hu]
  · rw [if_neg hrun, if_neg hrun]
    simp only [andThen_next]
    rw [if_neg hrun]

/-- Both storage spaces are in canonical form after reset. -/
theorem reset_memory_wf : State.reset.rb.mem.wf = true ∧ State.reset.env.nvs.wf = true := ⟨rfl, rfl⟩

/-- `Reset` leaves the store in the form it found it in (10 R41). -/
theorem resetBlock_nvs (s : State) : (resetBlock s).env = s.env := rfl

end Sys2Proof.Machine
end

