-- ==== Sys2Proof/Tests/Slice0.lean ====
section
/-! SUPPORT. The model's own tests, their expected values taken from the spec's worked examples and vectors (30, 40, 95), and
one witness for the hypotheses of every statement. -/

open Sys2Proof Sys2Proof.Machine

namespace Sys2Proof.Tests

/-! ## Small states -/

/-- The spec's `TCFG` with the two bindings of program P8 (95 Part 3). -/
def bound : Config :=
  { Config.reference with
    bind := [⟨4, .rising, 0x01, [0x00, 0xFF]⟩, ⟨5, .levelLow, 0x02, [0x00, 0x00, 0xFF]⟩], histReset := [false, true] }

/-- After `Reset` with these bindings. -/
def fresh : State := State.resetIn bound Environment.initial { events := [], arrivals := [], draws := 0 }

/-- `TCFG` after `Reset` with channel `c` replaced. -/
def withChannel (c : Nat) (x : Channel) : State := State.reset.setCh (State.reset.ch.set c x)

/-- The store `C0 A8 01 low` of program P5. -/
def withStore (low : Byte) : State :=
  State.reset.setEnv { State.reset.env with nvs := [(0, 0xC0), (1, 0xA8), (2, 0x01), (3, low)] }

/-- A Command in the inbox from a source, dispatch due, a `Poll` next. -/
def inboxed (i : Instr) (src : Source) (s : State) : State :=
  pollNext ((fillInbox i.code i.data src s).setArb { s.arb with state := .processing })

/-- A view of the next state. -/
def view {α : Type} (f : State → α) (o : Result) : Option α :=
  match o with
  | .next t => some (f t)
  | .fault _ | .refused _ => none

/-- A ring of four bytes after pushes. -/
def ringOf (bs : List Byte) : Ring :=
  bs.foldl (fun r b => (r.push 4 b).2) { mem := [], head := 0, tail := 0, empty := true, full := false }

/-! ## Decoding: words written out from 30_encoding and 95 section 2.2 -/

theorem test_decode_test : decode .toDevice [0x41, 0x74, 0x00, 0x99] = .ok .test [0x99] := by decide
theorem test_decode_setch : decode .toDevice [0x41, 0x01, 0x02, 0xB0, 0x03] = .ok (.setch 2 0xB0) [] := by decide
theorem test_decode_setch_start_bytes : decode .toDevice [0x41, 0x01, 0x41, 0x41, 0x01] = .ok (.setch 0x41 0x41) [] := by decide
theorem test_decode_fade : decode .toDevice [0x41, 0x02, 0x01, 0xC8, 0xFF, 0x03] = .ok (.fade 1 200 255) [] := by decide
theorem test_decode_setgrp : decode .toDevice [0x41, 0x03, 0x00, 0x01, 0x02, 0x03, 0x02] = .ok (.setgrp 0 1 2 3) [] := by decide
theorem test_decode_setip : decode .toDevice [0x41, 0xF0, 0x0A, 0x00, 0x00, 0x01, 0x01] = .ok (.setip 10 0 0 1) [] := by decide
theorem test_decode_reboot : decode .toDevice [0x41, 0xFE, 0x01] = .ok .reboot [] := by decide
theorem test_decode_resp_ok : decode .toPeer [0x41, 0x01, 0x00, 0x00, 0x01] = .ok (.resp STATUS_OK) [] := by decide
theorem test_decode_resp_error : decode .toPeer [0x41, 0x01, 0x00, 0x01, 0x02] = .ok (.resp STATUS_ERROR) [] := by decide
theorem test_decode_loopback : decode .toDevice [0x41, 0x01, 0x00, 0x01, 0x02] = .ok (.setch 0 1) [] := by decide

theorem test_reject_truncated : decode .toDevice [0x41, 0x01, 0x02, 0xB0] = .rejected .truncated := by decide
theorem test_reject_start : decode .toDevice [0x00, 0x74, 0x00] = .rejected (.badStart 0x00) := by decide
theorem test_reject_code : decode .toDevice [0x41, 0x78, 0x05] = .rejected (.unknownCode 0x78) := by decide
theorem test_reject_checksum : decode .toDevice [0x41, 0x74, 0x01] = .rejected (.badChecksum 0x01) := by decide
theorem test_reject_status : decode .toPeer [0x41, 0x01, 0x00, 0x02, 0x02] = .rejected (.badStatus 0x0002) := by decide

/-- V-CK2. -/
theorem test_checksum_vectors :
    checksum START 0x74 [] = 0x00 ∧ checksum START 0xFE [] = 0x01 ∧ checksum START 0x01 [0x02, 0xB0] = 0x03 ∧
    checksum START 0x03 [0x00, 0x01, 0x02, 0x03] = 0x02 ∧ checksum START 0xF0 [0xFF, 0xFF, 0xFF, 0xFF] = 0x00 := by decide

/-- The `match` words of the opcode table's rows (16 bits: START, CODE). -/
theorem test_table_words :
    decodeTableWord 16 0x4174 = some .test ∧ decodeTableWord 16 0x4101 = some (.setch 0 0) ∧
    decodeTableWord 16 0x4102 = some (.fade 0 0 0) ∧ decodeTableWord 16 0x4103 = some (.setgrp 0 0 0 0) ∧
    decodeTableWord 16 0x41F0 = some (.setip 0 0 0 0) ∧ decodeTableWord 16 0x41FE = some .reboot ∧
    decodeTableWord 16 0x4005 = none := by decide

/-! ## Well-formedness: an ill-formed term for each check -/

theorem test_wf_resp_status : Instr.wf (.resp 0x0002) = false ∧ Instr.wf (.resp STATUS_ERROR) = true := by decide
theorem test_parameters_channels : parametersOk { bound with numChannels := 2 } = false ∧ parametersOk bound = true := by decide
theorem test_parameters_channels_most : parametersOk { bound with numChannels := 256 } = false := by decide
theorem test_parameters_ring : parametersOk { bound with rbCap := 0 } = false := by decide
theorem test_parameters_timeout : parametersOk { bound with serTimeout := 0 } = false := by decide
theorem test_parameters_packet : parametersOk { bound with maxPacket := 6 } = false := by decide
theorem test_parameters_bindings : parametersOk { bound with maxBindings := 1 } = false := by decide
theorem test_parameters_history : parametersOk { bound with histReset := [] } = false := by decide
theorem test_binding_length : bindingOk ⟨4, .rising, 0x01, [0x00]⟩ = false ∧ bindingOk ⟨4, .rising, 0x55, []⟩ = true := by decide
theorem test_binding_bytes : bindingOk ⟨4, .rising, 0x55, [0, 0, 0, 0, 0, 0, 0, 0, 0]⟩ = false := by decide
theorem test_memory_wf : Memory.wf [(1, 0x02), (1, 0x03)] = false ∧ Memory.wf [(1, 0x00)] = false ∧ Memory.wf [(0, 0x01), (1, 0x03)] = true := by
  decide

/-! ## The instructions (95 section 2.3) -/

/-- V-C1. -/
theorem test_test_answers_ok : view outboxPacket (exec .test State.reset) = some [0x41, 0x01, 0x00, 0x00, 0x01] := by decide
/-- V-C3: the fade is cancelled; speed and accumulator stay. -/
theorem test_setch_cancels_fade :
    view (fun t => t.ch[2]?) (exec (.setch 2 0x10) (withChannel 2 ⟨100, 200, 50, 150⟩)) = some (some ⟨16, 16, 50, 150⟩) := by decide
/-- V-C5. -/
theorem test_setch_out_of_range :
    view (fun t => (t.ch, t.log, outboxPacket t)) (exec (.setch 6 0x10) State.reset) =
      some (State.reset.ch, [.channelRange], [0x41, 0x01, 0x00, 0x01, 0x02]) := by decide
/-- V-C9: the accumulator stays stale. -/
theorem test_fade_keeps_accumulator :
    view (fun t => t.ch[1]?) (exec (.fade 1 40 9) (withChannel 1 ⟨40, 90, 3, 77⟩)) = some (some ⟨40, 40, 9, 77⟩) := by decide
/-- V-C10. -/
theorem test_fade_out_of_range : view (fun t => (t.ch, t.log)) (exec (.fade 6 1 1) State.reset) = some (State.reset.ch, [.channelRange]) := by
  decide
/-- V-C12: `groupStart = NUM_CHANNELS - 3` succeeds. -/
theorem test_setgrp_last_group :
    view (fun t => t.ch.map Channel.current) (exec (.setgrp 3 255 128 0) State.reset) = some [0, 0, 0, 255, 128, 0] := by decide
/-- V-C13: `groupStart = NUM_CHANNELS - 2` is rejected. -/
theorem test_setgrp_out_of_range : view (fun t => (t.ch, t.log)) (exec (.setgrp 4 255 128 0) State.reset) = some (State.reset.ch, [.channelRange]) := by
  decide
/-- V-C18: four writes in ascending order; the latch is set. -/
theorem test_setip_writes_differing :
    view (fun t => (t.env.nvsWrites, t.ipLatch)) (exec (.setip 10 0 0 1) (withStore 0x14)) =
      some ([(0, 0x0A), (1, 0x00), (2, 0x00), (3, 0x01)], true) := by decide
/-- V-C16: nothing differs, so nothing is written and the latch stays clear. -/
theorem test_setip_nothing_differs :
    view (fun t => (t.env.nvsWrites, t.ipLatch, outboxPacket t)) (exec (.setip 192 168 1 10) (withStore 0x0A)) =
      some ([], false, [0x41, 0x01, 0x00, 0x01, 0x02]) := by decide
/-- V-C19, P5 step 5: the halt; nothing is sent, the mailbox stays full. -/
theorem test_reboot_halts :
    view (fun t => (t.halted, t.serTx, t.inbox.source, t.arb.state)) (step (inboxed .reboot .serial State.reset)) =
      some (.haltedReboot, [], .serial, .processing) := by decide
/-- V-AR3: an ERROR response to the serial link. -/
theorem test_resp_serial : view State.serTx (exec (.resp STATUS_ERROR) (inboxed .test .serial State.reset)) = some [0x41, 0x01, 0x00, 0x01, 0x02] := by
  decide
/-- V-AR3: and to the network, in one write. -/
theorem test_resp_network :
    view (fun t => (t.env.net.sent, t.serTx)) (exec (.resp STATUS_OK) (inboxed .test .network State.reset)) =
      some ([[0x41, 0x01, 0x00, 0x00, 0x01]], []) := by decide

/-! ## Steps -/

/-- P1, Poll 9: a TEST in the inbox is answered on the serial link, and both mailboxes are cleared. -/
theorem test_step_answers :
    view (fun t => (t.serTx, t.inbox.source, t.outbox.len, t.arb.state)) (step (inboxed .test .serial State.reset)) =
      some ([0x41, 0x01, 0x00, 0x00, 0x01], .none, 0, .idle) := by decide
/-- P3, Poll 18: the handler, then the first add in the same `Poll`. -/
theorem test_step_fades : view (fun t => t.ch[0]?) (step (inboxed (.fade 0 3 128) .serial State.reset)) = some (some ⟨0, 3, 128, 128⟩) := by
  decide
/-- The first row's word as the first instruction after reset. -/
theorem test_step_fetch_word : view State.serTx (step (State.reset.withFetchWord 16 0x4174)) = some [0x41, 0x01, 0x00, 0x00, 0x01] := by decide
/-- A word that is no command is rejected by name. -/
theorem test_step_fetch_bad_word : view State.log (step (State.reset.withFetchWord 16 0x4105)) = some [.unknownCode] := by decide
/-- V-C20: an unknown code from a binding does nothing and is cleared. -/
theorem test_step_unknown_code :
    view (fun t => (t.log, t.inbox.source)) (arbStep ((fillInbox 0x55 [] .digitalInput State.reset).setArb ⟨.processing, .serial⟩)) =
      some ([], .none) := by decide
/-- V-C21. -/
theorem test_step_unwired :
    view (fun t => (t.log, t.halted)) (arbStep { inboxed .test .serial State.reset with cfg := { Config.reference with mailboxWired := false } }) =
      some ([.fatalConfig], .haltedFatal) := by decide

/-! ## The ring (95 section 2.4, RB_CAP = 4) -/

/-- V-RB2, V-RB3. -/
theorem test_ring_full :
    (ringOf [0x11, 0x22, 0x33, 0x44]).full = true ∧ ((ringOf [0x11, 0x22, 0x33, 0x44]).push 4 0x55).1 = false ∧
    (ringOf [0x11, 0x22, 0x33, 0x44, 0x55]).contents 4 = [0x11, 0x22, 0x33, 0x44] := by decide
/-- V-RB4, V-RB5: the ring wraps. -/
theorem test_ring_wraps :
    let popped := (((ringOf [0x11, 0x22, 0x33, 0x44]).pop 4).2.pop 4).2
    ((popped.push 4 0x66).2.push 4 0x77).2.contents 4 = [0x33, 0x44, 0x66, 0x77] := by decide
/-- V-RB6: a pop of an empty ring. -/
theorem test_ring_pop_empty : ((ringOf []).pop 4).1 = 0x00 := by decide

/-! ## Fading and the BAM generator (95 sections 2.9, 2.10) -/

/-- V-FD4: exactly 255 counts. -/
theorem test_fade_exactly_saturates : Channel.fade ⟨0, 5, 1, 253⟩ = ⟨0, 5, 1, 254⟩ ∧ Channel.fade ⟨0, 5, 1, 254⟩ = ⟨1, 5, 1, 0⟩ := by decide
/-- V-FD8, V-FD5, V-FD6. -/
theorem test_fade_down : Channel.fade ⟨1, 0, 200, 100⟩ = ⟨0, 0, 200, 0⟩ := by decide
theorem test_fade_at_target : Channel.fade ⟨7, 7, 200, 99⟩ = ⟨7, 7, 200, 99⟩ ∧ Channel.fade ⟨0, 9, 0, 40⟩ = ⟨0, 9, 0, 40⟩ := by decide
/-- V-BM3. -/
theorem test_bam_plane_four :
    let s := (State.reset.setBam ⟨4, 0, []⟩).setCh ([0x10, 0xFF, 0xB0, 0x0F, 0x00, 0x1F].map fun v => ⟨v, v, 0, 0⟩)
    (bamTick s).bam = ⟨5, 31, [true, true, true, false, false, true]⟩ := by decide

/-! ## The sourcers (95 sections 2.5 to 2.7) -/

/-- C2's abandoned string: 0x41 is accepted, 0x78 is no code, 0x05 no start byte. -/
theorem test_serial_garbage : (sfByte 0x05 (sfByte 0x78 (sfByte 0x41 State.reset))).log = [.unknownCode, .badStart] := by decide
/-- A whole packet (41 R161's example). -/
theorem test_serial_packet : (sfByte 0x00 (sfByte 0x74 (sfByte 0x41 State.reset))).inbox.source = .serial := by decide
/-- V-NF9: a short datagram passes; V-NF10: with no data; 42 R186: merged packets fail test 4. -/
theorem test_datagram_short : datagramError [0x41, 0x01, 0x02, 0x02] = none ∧ datagramError [0x41, 0x01, 0x01] = none := by decide
theorem test_datagram_merged : datagramError [0x41, 0x74, 0x00, 0x41, 0x74, 0x00] = some .netLength := by decide
/-- 42 R185's example. -/
theorem test_datagram_checksum : datagramError [0x41, 0x74, 0x01] = some .badChecksum ∧ datagramError [0x41, 0x74] = some .netLength := by decide
/-- 42 R190's example, V-DI9: the edge triggers, the index advances. -/
theorem test_pin_rising :
    let s := diPoll (fresh.setEnv { fresh.env with pins := [(4, true)] })
    s.inbox.payload = [0x00, 0xFF] ∧ s.inbox.source = .digitalInput ∧ s.di = ⟨1, [true, true]⟩ := by decide
/-- V-DI7. -/
theorem test_pin_level_low :
    let s := diPoll ((fresh.setEnv { fresh.env with pins := [(5, true)] }).setDi ⟨1, [false, false]⟩)
    s.inbox.source = .none ∧ s.di = ⟨0, [false, true]⟩ := by decide

/-! ## Witnesses: for each statement with hypotheses, a state and operands that meet all of them, clause by clause -/

/-- A Poll of a SETCH 2, 0xB0 from the serial link comes next, with interrupts inside it; the framer is in mid-packet and the ring
holds two bytes. -/
def busy : State :=
  { (fillInbox 0x01 [0x02, 0xB0] .serial fresh) with
    arb := ⟨.processing, .network⟩
    sf := { state := .readingData, code := 0x03, buf := [0x01, 0, 0, 0, 0, 0, 0, 0], len := 1, idle := 2 }
    rb := { mem := [(0, 0x03), (7, 0x02)], head := 1, tail := 7, empty := false, full := false }
    nfIdle := 3
    sched := { events := [.poll [[.bamTick], [.rxByte 0x41, .bamTick]], .reset], arrivals := [], draws := 0 } }

/-- `TCFG` after `Reset` with a listed move. -/
def moving (e : Event) : State := State.reset.setSched { State.reset.sched with events := [e] }

/-- An established session with `bs` unread, which the next read returns whole. -/
def readable (bs : List Byte) : State :=
  State.reset.setEnv { State.reset.env with net := { State.reset.env.net with session := .established, rx := bs, readSizes := [bs.length] } }

theorem steppable_busy : Steppable busy := ⟨by decide, by decide, by decide⟩
theorem steppable_moving_reset : Steppable (moving .reset) := ⟨by decide, by decide, by decide⟩

theorem ringOk_empty : RingOk 4 (ringOf []) := by constructor <;> decide
theorem ringOk_two : RingOk 4 (ringOf [0x11, 0x22]) := by constructor <;> decide
theorem ringOk_full : RingOk 4 (ringOf [0x11, 0x22, 0x33, 0x44]) := by constructor <;> decide
theorem ringOk_busy : RingOk busy.cfg.rbCap busy.rb := by constructor <;> decide
theorem ringOk_reset : RingOk State.reset.cfg.rbCap State.reset.rb := by constructor <;> decide

theorem inv_busy : Inv busy :=
  { parameters := by decide, bindings := by decide, shape := by decide, ring := ringOk_busy
    mailbox := ⟨by decide, by decide, by decide⟩, framer := ⟨by decide, by decide, by decide⟩
    idle_lt := by decide, inbox_len := by decide, accumulators := by decide, halt := by decide }

theorem witness_DecodeReadsBackEveryInstruction : Instr.wf (.resp STATUS_ERROR) = true ∧ Instr.wf (.setip 255 255 255 255) = true := by decide

theorem witness_DecodeAcceptsOnlyPackets :
    decode .toDevice [0x41, 0x01, 0xFF, 0x01, 0x02, 0x41] = .ok (.setch 255 1) [0x41] ∧
    decode .toPeer [0x41, 0x01, 0x00, 0x00, 0x01] = .ok (.resp STATUS_OK) [] := by decide

theorem witness_WriteChangesOneByte : Memory.wf [(0, 0x01), (7, 0xFF)] = true := by decide

theorem witness_EqualReadsAreEqualStorage :
    let m : Memory := [(0, 0x01), (7, 0xFF)]
    let m' : Memory := Memory.write [(7, 0xFF)] 0 0x01
    m.wf = true ∧ m'.wf = true ∧ ∀ a, m.read a = m'.read a := ⟨by decide, by decide, fun _ => rfl⟩

theorem witness_PushAppendsOrIsRejected :
    (RingOk 4 (ringOf [0x11, 0x22, 0x33, 0x44]) ∧ ((ringOf [0x11, 0x22, 0x33, 0x44]).contents 4).length = 4) ∧
    (RingOk 4 (ringOf [0x11, 0x22]) ∧ ((ringOf [0x11, 0x22]).contents 4).length < 4) :=
  ⟨⟨ringOk_full, by decide⟩, ⟨ringOk_two, by decide⟩⟩

theorem witness_PopTakesTheOldestByte :
    (RingOk 4 (ringOf []) ∧ (ringOf []).contents 4 = []) ∧
    (RingOk 4 (ringOf [0x11, 0x22]) ∧ (ringOf [0x11, 0x22]).contents 4 = 0x11 :: [0x22]) :=
  ⟨⟨ringOk_empty, by decide⟩, ⟨ringOk_two, by decide⟩⟩

theorem witness_OverflowKeepsTheFirstBytes :
    let bs : List Byte := [0x11, 0x22, 0x33, 0x44]
    RingOk 4 (ringOf []) ∧ (ringOf []).empty = true ∧ bs.length = 4 ∧
    bs = [] ++ 0x11 :: [0x22, 0x33, 0x44] ∧ bs = [0x11, 0x22, 0x33] ++ 0x44 :: [] := ⟨ringOk_empty, by decide⟩

theorem witness_FullRingDropsTheByte : (State.reset.setRb (ringOf [0x11, 0x22, 0x33, 0x44])).rb.full = true := by decide

theorem witness_FiringShowsTheCurrentPlane : (withChannel 5 ⟨0xB0, 0, 0, 0⟩).ch[5]? = some ⟨0xB0, 0, 0, 0⟩ := by decide

theorem witness_EightFiringsShowEveryBit :
    (withChannel 5 ⟨0xB0, 0, 0, 0⟩).bam.plane = 0 ∧ (withChannel 5 ⟨0xB0, 0, 0, 0⟩).ch[5]? = some ⟨0xB0, 0, 0, 0⟩ ∧ 0 < 8 ∧ 7 < 8 := by decide

theorem witness_InterruptStepWritesOnlyItsOwnState :
    (Steppable (moving (.interrupt .bamTick)) ∧ (moving (.interrupt .bamTick)).sched.events = .interrupt .bamTick :: []) ∧
    (Steppable (moving (.interrupt (.rxByte 0x41))) ∧
      (moving (.interrupt (.rxByte 0x41))).sched.events = .interrupt (.rxByte 0x41) :: []) :=
  ⟨⟨⟨by decide, by decide, by decide⟩, by decide⟩, ⟨⟨by decide, by decide, by decide⟩, by decide⟩⟩

theorem witness_SerialPollIsAtomicForReceivedBytes :
    (RingOk busy.cfg.rbCap busy.rb ∧ busy.rb.available busy.cfg.rbCap ≠ 0) ∧
    (RingOk State.reset.cfg.rbCap State.reset.rb ∧ State.reset.rb.available State.reset.cfg.rbCap = 0) :=
  ⟨⟨ringOk_busy, by decide⟩, ⟨ringOk_reset, by decide⟩⟩

theorem witness_EveryFiringInsideAPollRuns : ∃ t, poll [[.bamTick], [.rxByte 0x41, .bamTick]] busy = .next t := ⟨_, rfl⟩

/-- With and without an interrupt listed. -/
theorem witness_FadeStepFadesEveryChannelOnce :
    let s := busy.setSched { busy.sched with arrivals := [[.bamTick]] }
    s.ch.length = s.cfg.numChannels ∧ busy.ch.length = busy.cfg.numChannels ∧ busy.sched.arrivals = [] := by decide

/-- A sum of 254, of 255 upward, of 255 downward, and a channel at its target. -/
theorem witness_FadeMovesOneUnitAtSaturation :
    let a : Channel := ⟨0, 5, 1, 253⟩
    let b : Channel := ⟨254, 255, 1, 254⟩
    let c : Channel := ⟨1, 0, 255, 0⟩
    let d : Channel := ⟨7, 7, 200, 99⟩
    (a.current ≠ a.target ∧ a.fadeAccumulator.toNat + a.fadeSpeed.toNat < 255) ∧
    (b.current.toNat < b.target.toNat ∧ 255 ≤ b.fadeAccumulator.toNat + b.fadeSpeed.toNat) ∧
    (c.target.toNat < c.current.toNat ∧ 255 ≤ c.fadeAccumulator.toNat + c.fadeSpeed.toNat) ∧ d.current = d.target := by decide

theorem witness_FadeIsIdleAtTheTarget :
    let s := withChannel 5 ⟨7, 7, 200, 99⟩
    s.ch.length = s.cfg.numChannels ∧ s.ch[5]? = some ⟨7, 7, 200, 99⟩ ∧ (7 : Byte) = 7 := by decide

theorem witness_FadePaceIsCeilingOf255OverSpeed :
    let x : Channel := ⟨0, 3, 128, 0⟩
    x.fadeAccumulator = 0 ∧ x.fadeSpeed ≠ 0 ∧ x.current ≠ x.target ∧ 1 < (255 + x.fadeSpeed.toNat - 1) / x.fadeSpeed.toNat := by decide

theorem witness_FadeReachesItsTargetOnTime :
    let x : Channel := ⟨0, 3, 128, 0⟩
    x.fadeAccumulator = 0 ∧ x.fadeSpeed ≠ 0 ∧
    ((x.target.toNat - x.current.toNat) + (x.current.toNat - x.target.toNat)) *
      ((255 + x.fadeSpeed.toNat - 1) / x.fadeSpeed.toNat) ≤ 6 := by decide

theorem witness_TestAnswersOk : (inboxed .test .serial State.reset).inbox.source = .serial := by decide

theorem witness_SetchSetsCurrentAndTarget :
    let s := State.reset
    s.ch.length = s.cfg.numChannels ∧ (5 : Byte).toNat < s.cfg.numChannels ∧ (∃ x, s.ch[5]? = some x) ∧ ∃ x, s.ch[0]? = some x :=
  ⟨by decide, by decide, ⟨_, rfl⟩, ⟨_, rfl⟩⟩

theorem witness_FadeSetsTargetAndSpeed :
    let s := State.reset
    s.ch.length = s.cfg.numChannels ∧ (5 : Byte).toNat < s.cfg.numChannels ∧ (∃ x, s.ch[5]? = some x) ∧ ∃ x, s.ch[0]? = some x :=
  ⟨by decide, by decide, ⟨_, rfl⟩, ⟨_, rfl⟩⟩

/-- The last group there is: channels 3, 4, 5 of six, and channel 2 beside it. -/
theorem witness_SetgrpSetsThreeChannels :
    let s := State.reset
    s.ch.length = s.cfg.numChannels ∧ (3 : Byte).toNat + 3 ≤ s.cfg.numChannels ∧ s.sched.arrivals = [] ∧
    (∃ x, s.ch[3]? = some x) ∧ (∃ x, s.ch[4]? = some x) ∧ (∃ x, s.ch[5]? = some x) ∧ ∃ x, s.ch[2]? = some x :=
  ⟨by decide, by decide, by decide, ⟨_, rfl⟩, ⟨_, rfl⟩, ⟨_, rfl⟩, ⟨_, rfl⟩⟩

theorem witness_SetgrpIsNotAtomicAcrossChannels :
    let s := State.reset.setSched { State.reset.sched with arrivals := [[.bamTick]] }
    s.ch.length = s.cfg.numChannels ∧ (3 : Byte).toNat + 3 ≤ s.cfg.numChannels ∧ s.sched.arrivals = [[.bamTick]] ∧
    (∃ x, s.ch[3]? = some x) ∧ ∃ x, s.ch[4]? = some x := ⟨by decide, by decide, by decide, ⟨_, rfl⟩, ⟨_, rfl⟩⟩

/-- The lowest index out of range of each command. -/
theorem witness_RangeErrorMutatesNothing :
    State.reset.cfg.numChannels ≤ (6 : Byte).toNat ∧ State.reset.cfg.numChannels < (4 : Byte).toNat + 3 := by decide

theorem witness_SetipCommitsDifferingBytes :
    let s := withStore 0x0A
    s.env.nvs.wf = true ∧ s.ipLatch = false ∧ s.env.nvs.read (s.cfg.nvsIpAddr + 3) ≠ 0x14 := by decide

theorem witness_SetipRefusedWritesNothing :
    ((withStore 0x0A).setIpLatch true).ipLatch = true ∧
    nvsReadBlock (withStore 0x0A).cfg.nvsIpAddr (withStore 0x0A) = [192, 168, 1, 10] := by decide

theorem witness_SecondCommitWritesNothing :
    ∃ t, exec (.setip 192 168 1 20) (withStore 0x0A) = .next t ∧ outboxPacket t = [0x41, 0x01, 0x00, 0x00, 0x01] := ⟨_, rfl, by decide⟩

theorem witness_RebootEndsItsPollAtOnce :
    let s := inboxed .reboot .serial State.reset
    Steppable s ∧ s.sched.events = .poll [] :: [] ∧ s.halted = .running ∧ s.cfg.mailboxWired = true ∧
    s.arb.state = .processing ∧ s.inbox.code = 0xFE := ⟨⟨by decide, by decide, by decide⟩, by decide⟩

theorem witness_ResponseGoesToTheCommandsSource :
    (inboxed .test .serial State.reset).inbox.source = .serial ∧ (inboxed .test .network State.reset).inbox.source = .network ∧
    (inboxed .test .digitalInput State.reset).inbox.source = .digitalInput ∧ State.reset.inbox.source = .none := by decide

theorem witness_HandlersKeepAccumulatorsAndSpeeds :
    ∃ t, exec (.setch 2 0x10) (withChannel 2 ⟨100, 200, 50, 150⟩) = .next t ∧ ∀ c tgt spd, Instr.setch 2 0x10 ≠ .fade c tgt spd :=
  ⟨_, rfl, nofun⟩

/-- A command from each of the three sources, and a REBOOT. -/
theorem witness_StepRunsTheFramedCommand :
    (Steppable busy ∧ busy.sched.events = .poll [[.bamTick], [.rxByte 0x41, .bamTick]] :: [.reset] ∧ busy.halted = .running ∧
      busy.cfg.mailboxWired = true ∧ busy.arb.state = .processing ∧
      decode .toDevice (packet busy.inbox.code busy.inbox.payload) = .ok (.setch 0x02 0xB0) [] ∧ busy.inbox.source = .serial) ∧
    ∀ src ∈ [Source.network, .digitalInput], ∀ i ∈ [Instr.test, .reboot],
      let s := inboxed i src State.reset
      parametersOk s.cfg = true ∧ bindingsOk s.cfg = true ∧ s.shape = true ∧ s.sched.events = .poll [] :: [] ∧ s.halted = .running ∧
      s.cfg.mailboxWired = true ∧ s.arb.state = .processing ∧ decode .toDevice (packet s.inbox.code s.inbox.payload) = .ok i [] ∧
      s.inbox.source = src := ⟨⟨steppable_busy, by decide⟩, by decide⟩

theorem witness_PlacedWordRunsNext :
    Steppable busy ∧ busy.cfg.mailboxWired = true ∧ decodeTableWord 16 0x41F0 = some (.setip 0 0 0 0) := ⟨steppable_busy, by decide⟩

theorem witness_UnknownCodeIsANoOp :
    let s := (fillInbox 0x55 [] .digitalInput State.reset).setArb ⟨.processing, .serial⟩
    s.cfg.mailboxWired = true ∧ hasCommand s.inbox.code = false ∧ s.halted = .running ∧ s.arb.state = .processing := by decide

/-- Each of the two causes. -/
theorem witness_AbsentMailboxIsFatal :
    let s : State := { inboxed .test .serial State.reset with cfg := { Config.reference with mailboxWired := false } }
    let u := State.reset.setArb ⟨.undefinedState, .serial⟩
    (s.arb.state = .processing ∧ s.cfg.mailboxWired = false ∧ s.halted = .running ∧ s.sched.arrivals = []) ∧
    u.arb.state = .undefinedState ∧ u.halted = .running ∧ u.sched.arrivals = [] := by decide

/-- V-NF9's and V-NF10's inboxes, and a short one of each other command. -/
theorem witness_MissingOperandIsAFreeValue :
    ∀ c ∈ [(0x01, [0x02]), (0x01, []), (0x02, [0x02, 0xFF]), (0x03, [0x00]), ((0xF0 : Byte), ([0xC0, 0xA8, 0x01] : List Byte))],
      let s := fillInbox c.1 c.2 .network State.reset
      s.cfg.mailboxWired = true ∧ s.inbox.code = c.1 ∧ s.inbox.len < requiredLength c.1 := by decide

/-- Each of the three turns. -/
theorem witness_IdlePollsOneSourcerInTurn :
    ∀ rr ∈ [Turn.digitalInput, .serial, .network],
      (fresh.setArb ⟨.idle, rr⟩).arb.state = .idle ∧ (fresh.setArb ⟨.idle, rr⟩).inbox.source = .none ∧
      (fresh.setArb ⟨.idle, rr⟩).arb.rr = rr ∧ (fresh.setArb ⟨.idle, rr⟩).halted = .running := by decide

theorem witness_NoSourcerRunsWhileProcessing : busy.arb.state = .processing ∧ busy.sched.arrivals = [] ∧ ∃ t, arbStep busy = .next t :=
  ⟨by decide, by decide, ⟨_, rfl⟩⟩

theorem witness_HaltedPollDoesNothing :
    (busy.setHalted .haltedReboot).halted ≠ .running ∧ (busy.setHalted .haltedReboot).sched.arrivals = [] := by decide

theorem witness_OnlyResetClearsLatchOrHalt :
    let s := (busy.setIpLatch true).setHalted .haltedFatal
    Event.poll [] ≠ .reset ∧ s.ipLatch = true ∧ s.halted ≠ .running ∧ ∃ t, runEvent (.poll []) s = .next t :=
  ⟨by decide, by decide, by decide, ⟨_, rfl⟩⟩

theorem witness_SerialFramerReadsBackEveryCommand :
    (Instr.setgrp 3 255 128 0).direction = .toDevice ∧ RingOk State.reset.cfg.rbCap State.reset.rb ∧ State.reset.rb.empty = true ∧
    State.reset.sf.state = .idle ∧ State.reset.sf.buf.length = MAX_DATA ∧ State.reset.sched.arrivals = [] :=
  ⟨by decide, ringOk_reset, by decide⟩

/-- Each state of the framer, with a byte it accepts and one it does not. -/
theorem witness_SerialFramerJudgesEveryByte :
    let g := sfByte 0x41 State.reset
    let r := sfByte 0x01 g
    let d := sfByte 0xB0 (sfByte 0x02 r)
    State.reset.sf.state = .idle ∧ (0x00 : Byte) ≠ 0x41 ∧ g.sf.state = .gotStart ∧ hasCommand 0x01 = true ∧ hasCommand 0x41 = false ∧
    r.sf.state = .readingData ∧ d.sf.state = .gotData ∧ 0x03 = checksum 0x41 d.sf.code (d.sf.buf.take d.sf.len) ∧
    0x02 ≠ checksum 0x41 d.sf.code (d.sf.buf.take d.sf.len) := by decide

theorem witness_SerialTimeoutRecoversTheFramer :
    let s := sfByte 0x41 State.reset
    1 ≤ s.cfg.serTimeout ∧ s.rb.available s.cfg.rbCap = 0 ∧ s.sched.arrivals = [] ∧ s.sf.state ≠ .idle ∧ s.sf.idle = 0 ∧
    2 < s.cfg.serTimeout := by decide

/-- A whole SETCH, and one with no data byte (V-NF10); the same two read in one network poll. -/
theorem witness_DatagramAcceptedIffPacket :
    ∀ d ∈ [[(0x02 : Byte), 0xB0], []],
      let s := readable (packet 0x01 d)
      hasCommand 0x01 = true ∧ d.length ≤ requiredLength 0x01 ∧ s.env.net.rx ≠ [] ∧ (netRead s).1 = packet 0x01 d := by decide

/-- Each of the five tests failing first, on bytes read in one network poll. -/
theorem witness_BadDatagramClosesTheSession :
    ∀ p ∈ [([0x41, 0x74], Error.netLength), ([0x42, 0x74, 0x00], .badStart), ([0x41, 0x05, 0x00], .unknownCode),
           ([0x41, 0x74, 0x00, 0x00], .netLength), (([0x41, 0x74, 0x01] : List Byte), .badChecksum)],
      datagramError p.1 = some p.2 ∧ (readable p.1).env.net.rx ≠ [] ∧ datagramError (netRead (readable p.1)).1 = some p.2 := by decide

theorem witness_MergedDatagramsFailTheLengthTest : Instr.direction .test = .toDevice ∧ (Instr.setip 0 0 0 0).direction = .toDevice := by decide

theorem witness_NetTimeoutClosesTheSession :
    let s := State.reset.setEnv { State.reset.env with net := { State.reset.env.net with session := .established } }
    s.env.net.rx = [] ∧ s.env.net.session ≠ .listening ∧ s.nfIdle = 0 ∧ 2 ≤ s.cfg.netTimeout := by decide

theorem witness_OneReadIsBounded :
    let s := State.reset.setEnv { State.reset.env with net := { State.reset.env.net with rx := [0x41] } }
    s.env.net.rx ≠ [] ∧ 1 ≤ s.cfg.maxPacket := by decide

/-- The last binding, with its pin's level set: one level triggers, the other does not; and a block with no bindings. -/
theorem witness_PinPollSamplesExactlyOneBinding :
    let s := (fresh.setDi ⟨1, [false, true]⟩).setEnv { fresh.env with pins := [(5, false)] }
    let b : Binding := ⟨5, .levelLow, 0x02, [0x00, 0x00, 0xFF]⟩
    (s.cfg.bind[s.di.idx]? = some b ∧ s.di.hist[s.di.idx]? = some true ∧ s.env.pins.lookup b.pin = some false ∧
      trigger b.mode true false = true ∧ trigger b.mode true true = false) ∧
    State.reset.cfg.bind = [] ∧ State.reset.arb = { state := .idle, rr := .digitalInput } ∧ State.reset.inbox.source = .none := by decide

theorem witness_ResetRestoresTheTable :
    (Steppable (moving .reset) ∧ (moving .reset).sched.events = .reset :: []) ∧
    (Steppable ((moving .reset).setHalted .haltedFatal) ∧ ((moving .reset).setHalted .haltedFatal).sched.events = .reset :: []) :=
  ⟨⟨steppable_moving_reset, by decide⟩, ⟨⟨by decide, by decide, by decide⟩, by decide⟩⟩

/-- Parameters with bindings, a store with bytes in it and a move to come. -/
theorem witness_ResetStateIsGood :
    parametersOk bound = true ∧ bindingsOk bound = true ∧ (withStore 0x0A).env.nvs.wf = true ∧ (moving .reset).sched.arrivals = [] := by
  decide

theorem witness_EveryStepKeepsTheInvariant : Inv busy ∧ ∃ t, step busy = .next t := ⟨inv_busy, ⟨_, rfl⟩⟩

theorem witness_GoodStatesNeverStop : Inv busy := inv_busy

theorem witness_IllFormedMachinesAreRefused :
    parametersOk ({ Config.reference with numChannels := 2 } : Config) = false ∧
    (parametersOk ({ bound with bind := [⟨4, .rising, 0x01, []⟩], histReset := [false] } : Config) = true ∧
      bindingsOk ({ bound with bind := [⟨4, .rising, 0x01, []⟩], histReset := [false] } : Config) = false) ∧
    (parametersOk State.reset.cfg = true ∧ bindingsOk State.reset.cfg = true ∧ (State.reset.setCh []).shape = false) ∧
    Steppable busy := ⟨by decide, by decide, by decide, steppable_busy⟩

theorem witness_LogIsNeverRead : ∃ t, step busy = .next t := ⟨_, rfl⟩

end Sys2Proof.Tests
end

section
/-! PROOFS. The encoding's two tables of facts (30_encoding): what the checksum sums, and what the command table answers. -/

namespace Sys2Proof

/-! ## Checksum (30 R93) -/

/-- A running XOR counts the true bits mod 2. -/
theorem toNat_foldl_xor {α : Type} (p : α → Bool) (l : List α) (a : Bool) :
    (l.foldl (fun acc i => acc ^^ p i) a).toNat = (a.toNat + l.countP p) % 2 := by
  induction l generalizing a with
  | nil => cases a <;> rfl
  | cons i l ih =>
    rw [List.foldl_cons, ih, List.countP_cons]
    cases a <;> cases p i <;> simp <;> omega

/-- `par` is the running XOR of the byte's bits, from bit 0 up. -/
theorem par_eq_foldl_xor (b : Byte) : par b = ((List.range 8).foldl (fun acc i => acc ^^ b.getLsbD i) false).toNat := by
  simp [par, List.range_succ]

theorem par_eq_countP_mod_two (b : Byte) : par b = ((List.range 8).countP fun i => b.getLsbD i) % 2 := by
  rw [par_eq_foldl_xor, toNat_foldl_xor, Bool.toNat_false, Nat.zero_add]

theorem toNat_checksum (start code : Byte) (d : List Byte) :
    (checksum start code d).toNat = (par start + par code + (d.map par).sum) % 256 := by
  rw [checksum, BitVec.toNat_ofNat, List.map_cons, List.map_cons, List.sum_cons, List.sum_cons, Nat.add_assoc]

/-- Settles O1: the XOR of the bits is their count mod 2 by induction along the bits, and the checksum's byte is its sum mod 2^8. -/
theorem checksumSumsParityBits : Obligations.ChecksumSumsParityBits :=
  ⟨par_eq_countP_mod_two, toNat_checksum⟩

/-! ## The command descriptor table (30 R98, R99) -/

theorem hasCommand_iff (c : Byte) :
    hasCommand c = true ↔ c = 0x74 ∨ c = 0x01 ∨ c = 0x02 ∨ c = 0x03 ∨ c = 0xF0 ∨ c = 0xFE := by
  simp [hasCommand, commandTable, @eq_comm Byte c]

/-- "returns 0 if code unknown": no row is found for a code the table does not hold. -/
theorem requiredLength_of_unknown {c : Byte} (h : hasCommand c = false) : requiredLength c = 0 := by
  have hnone : commandTable.find? (fun d => d.code == c) = none := by
    simpa [hasCommand, List.any_eq_false, List.find?_eq_none] using h
  rw [requiredLength, hnone]

theorem requiredLength_eq (c : Byte) :
    requiredLength c = if c = 0x01 then 2 else if c = 0x02 then 3 else if c = 0x03 ∨ c = 0xF0 then 4 else 0 := by
  cases h : hasCommand c with
  | true => obtain rfl | rfl | rfl | rfl | rfl | rfl := (hasCommand_iff c).mp h <;> rfl
  | false =>
    have hne := mt (hasCommand_iff c).mpr (Bool.eq_false_iff.mp h)
    simp only [not_or] at hne
    obtain ⟨-, h01, h02, h03, hF0, -⟩ := hne
    rw [requiredLength_of_unknown h, if_neg h01, if_neg h02, if_neg (not_or.mpr ⟨h03, hF0⟩)]

/-- Settles O2, by the table's six rows and the code it does not hold. -/
theorem commandTableHasSixCodes : Obligations.CommandTableHasSixCodes :=
  fun c => ⟨hasCommand_iff c, requiredLength_eq c⟩

end Sys2Proof
end

section
/-! PROOFS. The commands' handlers (40_commands): what each answers and what it leaves unchanged. -/

namespace Sys2Proof.Machine

/-! ## TEST (40 R125) -/

theorem exec_test (s : State) : exec .test s = .next (respond STATUS_OK s) := rfl

theorem encode_test : encode .test = [0x41, 0x74, 0x00] := by decide

theorem route_serTx_of_serial {s : State} (h : s.inbox.source = .serial) : (route s).serTx = s.serTx ++ outboxPacket s := by
  rw [route, h, serialSend_frame]

/-- `respond` leaves the inbox's source alone, so the answer to a command of the serial link goes back to it (43 R214). -/
theorem route_respond_serTx_of_serial (status : Half) {s : State} (h : s.inbox.source = .serial) :
    (route (respond status s)).serTx = s.serTx ++ outboxPacket (respond status s) :=
  route_serTx_of_serial (s := respond status s) h

end Sys2Proof.Machine

namespace Sys2Proof

open Machine in
/-- Settles O23: TEST is `respond` with the OK status, which writes the outbox alone; on a serial command `route` appends that packet. -/
theorem testAnswersOk : Obligations.TestAnswersOk := by
  refine ⟨encode_test, rfl, fun s => ⟨respond STATUS_OK s, exec_test s, respond_ok_packet s, respond_frame STATUS_OK s, fun hsource => ?_⟩⟩
  rw [route_respond_serTx_of_serial STATUS_OK hsource, respond_ok_packet]

end Sys2Proof
end

section
/-! PROOFS. The ring buffer under a run of pushes (41_serial_framer section 2). -/

namespace Sys2Proof.Machine

/-- The ring after the bytes of `l` are pushed in order, whatever each push answers. -/
def Ring.pushAll (cap : Nat) (r : Ring) (l : List Byte) : Ring := l.foldl (fun q x => (q.push cap x).2) r

@[simp] theorem Ring.pushAll_nil (cap : Nat) (r : Ring) : r.pushAll cap [] = r := rfl

@[simp] theorem Ring.pushAll_cons (cap : Nat) (r : Ring) (b : Byte) (l : List Byte) :
    r.pushAll cap (b :: l) = (r.push cap b).2.pushAll cap l := rfl

section
variable {cap : Nat} {r : Ring} (h : RingOk cap r)
include h

theorem Ring.full_eq_false_iff : r.full = false ↔ r.available cap < cap := by
  rw [← Bool.not_eq_true, ← Ring.available_full h, (Ring.available_le h).lt_iff_ne]

theorem Ring.contents_eq_nil_iff : r.contents cap = [] ↔ r.empty = true := by
  rw [← List.length_eq_zero_iff, Ring.contents_length, Ring.available_empty h]

end

/-- Bytes for which there is room are appended in order: each push finds the ring not full (41 R151). -/
theorem Ring.pushAll_room {cap : Nat} {r : Ring} (l : List Byte) (h : RingOk cap r) (room : r.available cap + l.length ≤ cap) :
    RingOk cap (r.pushAll cap l) ∧ (r.pushAll cap l).contents cap = r.contents cap ++ l := by
  induction l generalizing r with
  | nil => exact ⟨h, (List.append_nil _).symm⟩
  | cons b l ih =>
    rw [List.length_cons] at room
    obtain ⟨-, hok, hcontents⟩ := Ring.push_room (b := b) h ((Ring.full_eq_false_iff h).mpr (by omega))
    have hcount : (r.push cap b).2.available cap = r.available cap + 1 := by
      rw [← Ring.contents_length, hcontents, List.length_append, Ring.contents_length, List.length_singleton]
    obtain ⟨hok', hcontents'⟩ := ih hok (by omega)
    exact ⟨hok', by rw [Ring.pushAll_cons, hcontents', hcontents, List.append_assoc, List.singleton_append]⟩

/-- Into an empty ring, up to RB_CAP bytes are held just as they were pushed. -/
theorem Ring.pushAll_empty {cap : Nat} {r : Ring} {l : List Byte} (h : RingOk cap r) (he : r.empty = true) (hl : l.length ≤ cap) :
    RingOk cap (r.pushAll cap l) ∧ (r.pushAll cap l).contents cap = l ∧ (r.pushAll cap l).available cap = l.length := by
  obtain ⟨hok, hcontents⟩ := Ring.pushAll_room l h (by rwa [(Ring.available_empty h).mpr he, Nat.zero_add])
  rw [(Ring.contents_eq_nil_iff h).mpr he, List.nil_append] at hcontents
  exact ⟨hok, hcontents, by rw [← Ring.contents_length, hcontents]⟩

end Sys2Proof.Machine

namespace Sys2Proof

open Machine in
/-- Settles O10: before each of the first N pushes fewer than N bytes are held, so it finds room; after them N are held, so the ring is full. -/
theorem overflowKeepsTheFirstBytes : Obligations.OverflowKeepsTheFirstBytes := by
  intro cap r bs b h he hlen pushAll
  obtain ⟨hok, hcontents, hcount⟩ := Ring.pushAll_empty h he hlen.le
  rw [hlen] at hcount
  have hfull : (r.pushAll cap bs).full = true := (Ring.available_full hok).mp hcount
  refine ⟨fun before x after hbs => ?_, hfull, Ring.push_full b hfull, hcount, hcontents⟩
  have hlt : before.length < cap := by
    rw [← hlen, hbs, List.length_append, List.length_cons]
    omega
  obtain ⟨hok, -, hcount⟩ := Ring.pushAll_empty h he hlt.le
  have hroom : (r.pushAll cap before).full = false := (Ring.full_eq_false_iff hok).mpr (hcount ▸ hlt)
  exact (Ring.push_room hok hroom).1

end Sys2Proof
end

section
/-! PROOFS. The digital-input sourcer (42_datagram_and_digital_sourcers): when a binding triggers (R191). -/

namespace Sys2Proof

open Machine in
/-- Settles O53: each mode's row is a Boolean formula in the two levels, read off as the proposition it decides. -/
theorem triggerFollowsTheModeTable : Obligations.TriggerFollowsTheModeTable := by
  intro prev cur
  refine ⟨?rising, ?falling, ?change, ?levelHigh, ?levelLow⟩
  case rising => rw [trigger, Bool.and_eq_true, Bool.not_eq_true']
  case falling => rw [trigger, Bool.and_eq_true, Bool.not_eq_true']
  case change => exact bne_iff_ne
  case levelHigh => exact Iff.rfl
  case levelLow => rw [trigger, Bool.not_eq_true']

end Sys2Proof
end

section
/-! PROOFS. The fade controller (44_dimmer_fade section 3): a channel at its target is idle (R237). -/

namespace Sys2Proof.Machine

/-- `FadeChannel` returns at once when `current == target`, before the accumulator is touched (44 R232). -/
theorem Channel.fade_of_current_eq_target {x : Channel} (h : x.current = x.target) : x.fade = x := by
  rw [Channel.fade, if_pos h]

@[simp] theorem fadeChannel_ch (c : Nat) (s : State) : (fadeChannel c s).ch = s.ch.modify c Channel.fade := rfl

section
variable {s : State} {k : Nat} {x : Channel} (hx : s.ch[k]? = some x) (htarget : x.current = x.target)
include hx htarget

theorem fadeChannel_keeps_channel_at_target (c : Nat) : (fadeChannel c s).ch[k]? = some x := by
  rw [fadeChannel_ch, List.getElem?_modify, hx, Option.map_eq_map, Option.map_some]
  split
  · rw [Channel.fade_of_current_eq_target htarget]
  · rfl

/-- Neither the fading of any channel nor an interrupt between two of them changes a channel at its target. -/
theorem fadeStep_keeps_channel_at_target : (fadeStep s).ch[k]? = some x := by
  rw [fadeStep]
  refine List.foldlRecOn (motive := fun t : State => t.ch[k]? = some x) _ _ hx fun t ht c _ => ?_
  rw [boundary_ch]
  exact fadeChannel_keeps_channel_at_target ht htarget c

end

end Sys2Proof.Machine

namespace Sys2Proof

open Machine in
/-- Settles O20: that channel `k` is `x` is kept by one `FadeStep`, so by any number of them. -/
theorem fadeIsIdleAtTheTarget : Obligations.FadeIsIdleAtTheTarget := by
  intro n s _ k x hx htarget
  exact Function.Iterate.rec (fun t : State => t.ch[k]? = some x) hx (fun _ ht => fadeStep_keeps_channel_at_target ht htarget) n

end Sys2Proof
end

section
/-! PROOFS. The bit-angle-modulation generator (45_bam_output): what one firing writes, and the state eight of them reach. -/

namespace Sys2Proof.Machine

/-! ## One firing (45 R246, R247) -/

section
variable (s : State)

@[simp] theorem bamTick_ch : (bamTick s).ch = s.ch := rfl
@[simp] theorem bamTick_plane : (bamTick s).bam.plane = s.bam.plane + 1 := rfl
@[simp] theorem bamTick_ocr : (bamTick s).bam.ocr = threshold s.bam.plane := rfl
@[simp] theorem bamTick_pwm : (bamTick s).bam.pwm = s.ch.map (levelBit s.bam.plane) := rfl

end

/-- Each pin shows its own channel's bit of the plane on entry. -/
theorem bamTick_pwm_getElem? {s : State} {c : Nat} {x : Channel} (hx : s.ch[c]? = some x) :
    (bamTick s).bam.pwm[c]? = some (x.current.getLsbD s.bam.plane.toNat) := by
  rw [bamTick_pwm, List.getElem?_map, hx, Option.map_some, levelBit]

/-- The largest threshold, 2^8 - 1, still fits the compare register's byte. -/
theorem toNat_threshold (p : BitVec 3) : (threshold p).toNat = 2 ^ (p.toNat + 1) - 1 := by
  have hle : 2 ^ (p.toNat + 1) ≤ 2 ^ 8 := Nat.pow_le_pow_right Nat.two_pos p.isLt
  rw [threshold, BitVec.toNat_ofNat, Nat.mod_eq_of_lt (by omega)]

/-! ## A run of firings (45 R251) -/

/-- No firing writes the channel file, so the levels are constant through any run of firings. -/
@[simp] theorem iterate_bamTick_ch (n : Nat) (s : State) : (bamTick^[n] s).ch = s.ch :=
  Function.Iterate.rec (fun t : State => t.ch = s.ch) rfl (fun t ht => (bamTick_ch t).trans ht) n

/-- Each firing advances the plane by one, mod 8. -/
theorem iterate_bamTick_plane (n : Nat) (s : State) : (bamTick^[n] s).bam.plane = s.bam.plane + BitVec.ofNat 3 n := by
  induction n with
  | zero => exact (BitVec.add_zero _).symm
  | succ n ih =>
    rw [Function.iterate_succ_apply', bamTick_plane, ih, BitVec.add_assoc, BitVec.ofNat_add]
    rfl

/-- Firing `k` of eight from plane 0 finds plane `k` on entry. -/
theorem toNat_iterate_bamTick_plane {s : State} (hplane : s.bam.plane = 0) {k : Nat} (hk : k < 8) :
    (bamTick^[k] s).bam.plane.toNat = k := by
  rw [iterate_bamTick_plane, hplane, zero_add, BitVec.toNat_ofNat, Nat.mod_eq_of_lt hk]

end Sys2Proof.Machine

namespace Sys2Proof

open Machine in
/-- Settles O13: firing `k` finds the channel file as it was and plane `k`, so what it shows and loads is one firing's law at that
plane; the eighth wraps the plane to 0. -/
theorem eightFiringsShowEveryBit : Obligations.EightFiringsShowEveryBit := by
  refine ⟨fun s hplane => ⟨fun k hk c x hx => ?pins, fun k hk => ?compare, ?plane⟩, by decide⟩
  case pins =>
    have hx' : (bamTick^[k] s).ch[c]? = some x := by rwa [iterate_bamTick_ch]
    rw [Function.iterate_succ_apply', bamTick_pwm_getElem? hx', toNat_iterate_bamTick_plane hplane hk]
  case compare =>
    rw [Function.iterate_succ_apply', bamTick_ocr, toNat_threshold, toNat_iterate_bamTick_plane hplane hk]
  case plane =>
    rw [iterate_bamTick_plane, hplane, zero_add]
    rfl

end Sys2Proof
end

section
/-! PROOFS. The exceptions (60_exceptions): a byte received by a full ring (R274). -/

namespace Sys2Proof

open Machine in
/-- Settles O11: the push is rejected with the ring as it was, and the ring is all that `RxByte` writes; `ringOverflow` logs nothing. -/
theorem fullRingDropsTheByte : Obligations.FullRingDropsTheByte := by
  intro b s hfull
  rw [rxByte_eq, Ring.push_full b hfull, State.setRb_self]

end Sys2Proof
end

section
/-! PROOFS. The wire's round trip (30_encoding): the decoder reads back every packet, and accepts nothing else. -/

namespace Sys2Proof

/-! ## The two halves of a status (20 R64 (b)) -/

theorem joinBytes_hiByte_loByte (v : Half) : joinBytes (hiByte v) (loByte v) = v := BitVec.extractLsb'_append_extractLsb'

theorem hiByte_joinBytes (hi lo : Byte) : hiByte (joinBytes hi lo) = hi := BitVec.extractLsb'_append_eq_left

theorem loByte_joinBytes (hi lo : Byte) : loByte (joinBytes hi lo) = lo := BitVec.extractLsb'_append_eq_right

/-! ## Packets (30 R90, R97) -/

/-- The wire's law, instruction by instruction. -/
theorem wire_statement (i : Instr) : Laws.Wire.Statement i := by
  cases i with
  | test => exact Laws.Wire.test
  | setch channel value => exact Laws.Wire.setch channel value
  | fade channel target speed => exact Laws.Wire.fade channel target speed
  | setgrp groupStart r g b => exact Laws.Wire.setgrp groupStart r g b
  | setip ip0 ip1 ip2 ip3 => exact Laws.Wire.setip ip0 ip1 ip2 ip3
  | reboot => exact Laws.Wire.reboot
  | resp status => exact Laws.Wire.resp status

theorem knownCode_code (i : Instr) : knownCode i.direction i.code = true := by
  obtain ⟨-, hknown, -⟩ := wire_statement i
  exact hknown

theorem length_data (i : Instr) : i.data.length = dataLength i.direction i.code := by
  obtain ⟨-, -, hlen, -⟩ := wire_statement i
  exact hlen

theorem hasCommand_code {i : Instr} (hi : i.direction = .toDevice) : hasCommand i.code = true := by
  simpa [hi, knownCode] using knownCode_code i

theorem length_data_of_command {i : Instr} (hi : i.direction = .toDevice) : i.data.length = requiredLength i.code := by
  simpa [hi, dataLength] using length_data i

/-- A packet whose code is known and whose data has the code's length passes every test of the decoder. -/
theorem decode_packet {dir : Direction} {c : Byte} {d : List Byte} (hc : knownCode dir c = true)
    (hd : d.length = dataLength dir c) (rest : List Byte) :
    decode dir (packet c d ++ rest) = instrOfPacket dir c d rest := by
  have hbytes : packet c d ++ rest = START :: c :: (d ++ checksum START c d :: rest) := by simp [packet]
  rw [hbytes, decode, if_neg (by simp), if_neg (by simp [hc]), ← hd, List.take_left, List.drop_left]
  exact if_pos rfl

/-- Whatever the decoder accepts begins with such a packet. -/
theorem eq_packet_of_decode {dir : Direction} {bs rest : List Byte} {i : Instr} (h : decode dir bs = .ok i rest) :
    ∃ c d rest', knownCode dir c = true ∧ d.length = dataLength dir c ∧ bs = packet c d ++ rest' ∧
      instrOfPacket dir c d rest' = .ok i rest := by
  match bs, h with
  | [], h => cases h
  | [_], h => cases h
  | s :: c :: body, h =>
    rw [decode] at h
    split at h
    · cases h
    next hs =>
    split at h
    · cases h
    next hc =>
    dsimp only at h
    split at h
    · cases h
    next ck rest' hdrop =>
    split at h
    next hck =>
      have hlen : dataLength dir c ≤ body.length := by
        by_contra hlt
        rw [List.drop_eq_nil_of_le (by omega)] at hdrop
        cases hdrop
      refine ⟨c, body.take (dataLength dir c), rest', by simpa using hc, by simpa using hlen, ?_, h⟩
      rw [packet, ← hck, List.cons_append, List.cons_append, List.append_assoc, List.singleton_append, ← hdrop,
        List.take_append_drop, not_not.mp hs]
    · cases h

/-! ## Instructions of packets (30 R92, R96, R98) -/

theorem instrOfPacket_data {i : Instr} (hi : i.wf = true) (rest : List Byte) :
    instrOfPacket i.direction i.code i.data rest = .ok i rest := by
  cases i with
  | resp status =>
    have hstatus : status = STATUS_OK ∨ status = STATUS_ERROR := by simpa [Instr.wf] using hi
    show (if joinBytes (hiByte status) (loByte status) = STATUS_OK ∨ joinBytes (hiByte status) (loByte status) = STATUS_ERROR
      then Decoded.ok (.resp (joinBytes (hiByte status) (loByte status))) rest else _) = _
    rw [joinBytes_hiByte_loByte, if_pos hstatus]
  | test | setch | fade | setgrp | setip | reboot => rfl

/-- The instruction read from the six codes' operands has that code and those operands. -/
theorem eq_of_instrOfPacket_toDevice {c : Byte} {d rest rest' : List Byte} {i : Instr} (hc : hasCommand c = true)
    (hd : d.length = requiredLength c) (h : instrOfPacket .toDevice c d rest' = .ok i rest) :
    i.code = c ∧ i.data = d ∧ rest' = rest ∧ i.wf = true ∧ i.direction = .toDevice := by
  obtain rfl | rfl | rfl | rfl | rfl | rfl := (hasCommand_iff c).mp hc
  case inl | inr.inr.inr.inr.inr =>
    obtain rfl := List.eq_nil_of_length_eq_zero hd
    cases h
    exact ⟨rfl, rfl, rfl, rfl, rfl⟩
  case inr.inl =>
    match d, hd with
    | [_, _], _ => cases h; exact ⟨rfl, rfl, rfl, rfl, rfl⟩
  case inr.inr.inl =>
    match d, hd with
    | [_, _, _], _ => cases h; exact ⟨rfl, rfl, rfl, rfl, rfl⟩
  case inr.inr.inr.inl | inr.inr.inr.inr.inl =>
    match d, hd with
    | [_, _, _, _], _ => cases h; exact ⟨rfl, rfl, rfl, rfl, rfl⟩

theorem eq_of_instrOfPacket_toPeer {c : Byte} {d rest rest' : List Byte} {i : Instr} (hc : c = RESP_CODE)
    (hd : d.length = 2) (h : instrOfPacket .toPeer c d rest' = .ok i rest) :
    i.code = c ∧ i.data = d ∧ rest' = rest ∧ i.wf = true ∧ i.direction = .toPeer := by
  match d, hd with
  | [hi, lo], _ =>
    have hjoin : instrOfPacket .toPeer c [hi, lo] rest' =
        if joinBytes hi lo = STATUS_OK ∨ joinBytes hi lo = STATUS_ERROR then .ok (.resp (joinBytes hi lo)) rest'
        else .rejected (.badStatus (joinBytes hi lo)) := rfl
    rw [hjoin] at h
    split at h
    next hstatus =>
      cases h
      exact ⟨hc.symm, by rw [Instr.data, hiByte_joinBytes, loByte_joinBytes], rfl, by simpa [Instr.wf] using hstatus, rfl⟩
    · cases h

theorem eq_of_instrOfPacket {dir : Direction} {c : Byte} {d rest rest' : List Byte} {i : Instr} (hc : knownCode dir c = true)
    (hd : d.length = dataLength dir c) (h : instrOfPacket dir c d rest' = .ok i rest) :
    i.code = c ∧ i.data = d ∧ rest' = rest ∧ i.wf = true ∧ i.direction = dir := by
  cases dir with
  | toDevice => exact eq_of_instrOfPacket_toDevice hc hd h
  | toPeer => exact eq_of_instrOfPacket_toPeer (by simpa [knownCode] using hc) hd h

/-! ## The round trip -/

/-- Settles O3: an instruction's bytes are a packet of known code and right length, whose instruction is read from its own data. -/
theorem decodeReadsBackEveryInstruction : Obligations.DecodeReadsBackEveryInstruction := by
  intro i rest hi
  rw [encode, decode_packet (knownCode_code i) (length_data i), instrOfPacket_data hi]

/-- Settles O4: what is accepted begins with a packet of known code and right length, and the instruction has its code and data. -/
theorem decodeAcceptsOnlyPackets : Obligations.DecodeAcceptsOnlyPackets := by
  intro dir bs i rest h
  obtain ⟨c, d, rest', hc, hd, rfl, hi⟩ := eq_packet_of_decode h
  obtain ⟨rfl, rfl, rfl, hwf, hdir⟩ := eq_of_instrOfPacket hc hd hi
  exact ⟨rfl, hwf, hdir⟩

/-- Settles O5: the decoder runs on the seven packets. -/
theorem specPacketsDecode : Obligations.SpecPacketsDecode := by
  unfold Obligations.SpecPacketsDecode
  decide

end Sys2Proof
end

section
/-! PROOFS. Byte-addressed storage (20_memory section 1): a write changes one byte, and reads determine canonical storage. -/

namespace Sys2Proof.Machine.Memory

section
variable {lo : Option Nat} {k : Nat} {b : Byte} {m : Memory} (h : wfFrom lo ((k, b) :: m) = true)
include h

theorem read_below_head {a : Nat} (ha : a < k) : Memory.read ((k, b) :: m) a = unwritten := by
  obtain ⟨-, -, htail⟩ := (wfFrom_cons lo k b m).mp h
  rw [read_cons, if_neg ha.ne', read_of_le htail ha.le]

/-- The first listed address of canonical storage reads as no unlisted one does. -/
theorem read_head_ne_unwritten : Memory.read ((k, b) :: m) k ≠ unwritten := by
  obtain ⟨-, hb, -⟩ := (wfFrom_cons lo k b m).mp h
  rwa [read_cons, if_pos rfl]

theorem read_tail (a : Nat) : m.read a = if a = k then unwritten else Memory.read ((k, b) :: m) a := by
  obtain ⟨-, -, htail⟩ := (wfFrom_cons lo k b m).mp h
  split
  next ha => rw [read_of_le htail ha.le]
  next ha => rw [read_cons, if_neg (Ne.symm ha)]

end

/-- Storage that reads alike lists the same first address: a smaller one would read as unwritten in the other. -/
theorem eq_of_read_eq {lo lo' : Option Nat} {m m' : Memory} (h : wfFrom lo m = true) (h' : wfFrom lo' m' = true)
    (hread : ∀ a, m.read a = m'.read a) : m = m' := by
  induction m generalizing lo lo' m' with
  | nil =>
    cases m' with
    | nil => rfl
    | cons c' m' => exact absurd (hread c'.1).symm (read_head_ne_unwritten h')
  | cons c m ih =>
    cases m' with
    | nil => exact absurd (hread c.1) (read_head_ne_unwritten h)
    | cons c' m' =>
      obtain ⟨k, b⟩ := c
      obtain ⟨k', b'⟩ := c'
      obtain hlt | rfl | hlt := lt_trichotomy k k'
      · exact absurd ((hread k).trans (read_below_head h' hlt)) (read_head_ne_unwritten h)
      · have hb : b = b' := by simpa [read_cons] using hread k
        obtain ⟨-, -, htail⟩ := (wfFrom_cons lo k b m).mp h
        obtain ⟨-, -, htail'⟩ := (wfFrom_cons lo' k b' m').mp h'
        rw [hb, ih htail htail' fun a => by rw [read_tail h, read_tail h', hread]]
      · exact absurd ((hread k').symm.trans (read_below_head h hlt)) (read_head_ne_unwritten h')

end Sys2Proof.Machine.Memory

namespace Sys2Proof

open Machine in
/-- Settles O6, by the storage's two laws of a write. -/
theorem writeChangesOneByte : Obligations.WriteChangesOneByte :=
  fun m a v h => ⟨Memory.wf_write h a v, Memory.read_write m h a v⟩

open Machine in
/-- Settles O7, by induction along both lists of cells. -/
theorem equalReadsAreEqualStorage : Obligations.EqualReadsAreEqualStorage :=
  fun _ _ h h' hread => Memory.eq_of_read_eq h h' hread

end Sys2Proof
end

section
/-! PROOFS. The ring buffer as a queue (41_serial_framer section 2): a push, a pop, the count and a clear (R155). -/

namespace Sys2Proof.Machine

/-- Both indices at 0 and the empty flag make a ring of any capacity that some ring has (41 R154). -/
theorem RingOk.clear {cap : Nat} {r : Ring} (h : RingOk cap r) : RingOk cap r.clear where
  head_lt := Nat.zero_lt_of_lt h.head_lt
  tail_lt := Nat.zero_lt_of_lt h.tail_lt
  of_empty _ := ⟨rfl, rfl⟩
  of_full hfull := nomatch hfull
  of_between hne := absurd rfl hne
  of_equal _ := .inl rfl
  mem_wf := h.mem_wf
  cells_lt := h.cells_lt

end Sys2Proof.Machine

namespace Sys2Proof

open Machine in
/-- Settles O8: RB_CAP bytes are held exactly when the ring is full, and a push is rejected exactly then. -/
theorem pushAppendsOrIsRejected : Obligations.PushAppendsOrIsRejected := by
  intro cap r b h
  rw [Ring.contents_length]
  exact ⟨Ring.available_le h, fun hfull => Ring.push_full b ((Ring.available_full h).mp hfull),
    fun hroom => Ring.push_room h ((Ring.full_eq_false_iff h).mpr hroom)⟩

open Machine in
/-- Settles O9: no byte is held exactly when the ring is empty; a pop of any other ring splits off the first byte held. -/
theorem popTakesTheOldestByte : Obligations.PopTakesTheOldestByte := by
  intro cap r h
  refine ⟨(Ring.contents_length cap r).symm, fun hnil => Ring.pop_empty ((Ring.contents_eq_nil_iff h).mp hnil),
    fun b q hheld => ?_, h.clear, (Ring.contents_eq_nil_iff h.clear).mpr rfl⟩
  have hempty : r.empty = false := by
    rw [← Bool.not_eq_true, ← Ring.contents_eq_nil_iff h, hheld]
    exact List.cons_ne_nil b q
  obtain ⟨hsplit, hok⟩ := Ring.pop_held h hempty
  obtain ⟨hb, hq⟩ := List.cons.inj (hheld.symm.trans hsplit)
  exact ⟨hb.symm, hok, hq.symm⟩

end Sys2Proof
end

section
/-! PROOFS. The two interrupts (45_bam_output section 2, 60_exceptions, 20_memory section 9): what each writes, and in what order. -/

namespace Sys2Proof.Machine

theorem takeInterrupts_cons (i : Interrupt) (is : List Interrupt) (s : State) :
    takeInterrupts (i :: is) s = takeInterrupts is (takeInterrupt i s) := rfl

/-- Both handlers write one field, and neither reads the other's (20 R77). -/
theorem rxByte_bamTick_comm (b : Byte) (s : State) : rxByte b (bamTick s) = bamTick (rxByte b s) := by
  rw [rxByte_eq, rxByte_eq]
  rfl

/-! ## A serial poll, by whether a byte was held (41 R157) -/

/-- The second unit of a serial poll that found a byte: pop it, clear the idle count, judge it. -/
def popAndJudge (s : State) : State :=
  sfByte (s.rb.pop s.cfg.rbCap).1 ((s.setRb (s.rb.pop s.cfg.rbCap).2).setSf { s.sf with idle := 0 })

theorem serialPoll_of_none {s : State} (h : s.rb.available s.cfg.rbCap = 0) : serialPoll s = sfNoByte (boundary s) :=
  if_pos h

theorem serialPoll_of_held {s : State} (h : s.rb.available s.cfg.rbCap ≠ 0) : serialPoll s = popAndJudge (boundary s) :=
  if_neg h

/-- A poll that found no byte counts it; the SER_TIMEOUT-th in a row starts the count again and ends a packet begun (41 R163). -/
theorem sfNoByte_eq (s : State) :
    sfNoByte s =
      if s.sf.idle + 1 = s.cfg.serTimeout then
        if s.sf.state = .idle then s.setSf { s.sf with idle := 0 }
        else (s.setLog (s.log ++ [.serialTimeout])).setSf { s.sf with state := .idle, len := 0, idle := 0 }
      else s.setSf { s.sf with idle := s.sf.idle + 1 } := by
  unfold sfNoByte
  dsimp only
  split_ifs <;> rfl

/-- A poll that found nothing neither reads nor writes the ring. -/
theorem sfNoByte_setRb (s : State) (r : Ring) : sfNoByte (s.setRb r) = (sfNoByte s).setRb r := by
  rw [sfNoByte_eq s, apply_ite (State.setRb · r), apply_ite (State.setRb · r)]
  exact sfNoByte_eq (s.setRb r)

theorem sfNoByte_rxByte_comm (b : Byte) (s : State) : sfNoByte (rxByte b s) = rxByte b (sfNoByte s) := by
  rw [rxByte_eq, rxByte_eq, sfNoByte_setRb, sfNoByte_frame]

/-- A push never empties the ring: it appends, or changes nothing. -/
theorem Ring.available_push_ne_zero {cap : Nat} {r : Ring} (h : RingOk cap r) (hr : r.available cap ≠ 0) (b : Byte) :
    (r.push cap b).2.available cap ≠ 0 := by
  cases hf : r.full with
  | true => rwa [Ring.push_full b hf]
  | false =>
    obtain ⟨-, -, hcontents⟩ := Ring.push_room (b := b) h hf
    rw [← Ring.contents_length, hcontents]
    simp

end Sys2Proof.Machine

namespace Sys2Proof

open Machine in
/-- Settles O12, by the laws of one firing; the plane's register has three bits, so it advances mod 8. -/
theorem firingShowsTheCurrentPlane : Obligations.FiringShowsTheCurrentPlane := by
  intro s
  refine ⟨by rw [bamTick_pwm, List.length_map], fun c x hx => bamTick_pwm_getElem? hx, ?_, ?_, rfl⟩
  · rw [bamTick_ocr, toNat_threshold]
  · rw [bamTick_plane, BitVec.toNat_add]
    rfl

open Machine in
/-- Settles O14: the handlers write different fields, and neither reads the other's. -/
theorem interruptOrderIsUnobservable : Obligations.InterruptOrderIsUnobservable :=
  rxByte_bamTick_comm

open Machine in
/-- Settles O15: a step's check reads no halt, and an interrupt writes what its handler's law says. -/
theorem interruptStepWritesOnlyItsOwnState : Obligations.InterruptStepWritesOnlyItsOwnState := by
  intro s i later hs he
  refine ⟨_, step_of_steppable hs he, takeInterrupt_frame i _, ?_, ?_⟩
  · rintro rfl
    exact ⟨rfl, rfl⟩
  · rintro b rfl
    rw [takeInterrupt, rxByte_eq]
    exact ⟨rfl, rfl⟩

open Machine in
/-- Settles O16: where a byte was held the count only matters as nonzero, which the push keeps; where none was, the poll does not look
at the ring again. -/
theorem serialPollIsAtomicForReceivedBytes : Obligations.SerialPollIsAtomicForReceivedBytes := by
  intro s b later hok arriving
  have hinside : boundary (arriving ([.rxByte b] :: later) s) = rxByte b (arriving later s) := rfl
  refine ⟨fun hheld => ?_, fun hnone => ?_⟩
  · have hheld' : (rxByte b s).rb.available (rxByte b s).cfg.rbCap ≠ 0 := by
      rw [rxByte_eq]
      exact Ring.available_push_ne_zero hok hheld b
    have hbefore : boundary (arriving ([] :: later) (rxByte b s)) = rxByte b (arriving later s) := by
      rw [rxByte_eq, rxByte_eq]
      rfl
    rw [serialPoll_of_held (s := arriving ([.rxByte b] :: later) s) hheld,
      serialPoll_of_held (s := arriving ([] :: later) (rxByte b s)) hheld', hinside, hbefore]
  · have hafter : boundary (arriving ([] :: later) s) = arriving later s := rfl
    rw [serialPoll_of_none (s := arriving ([.rxByte b] :: later) s) hnone,
      serialPoll_of_none (s := arriving ([] :: later) s) hnone, hinside, hafter, sfNoByte_rxByte_comm]

end Sys2Proof
end

section
/-! PROOFS. The main context's writes: everything a `Poll` does, as a sequence of the model's own operations (43_arbitrator section 1),
so that a promise about every `Poll` is a promise about each of them. -/

namespace Sys2Proof.Machine

/-- One write of the main context, or the interrupts at one boundary. -/
inductive MainWrite (s : State) : State → Prop
  | boundary : MainWrite s (boundary s)
  | raise (e : Error) : MainWrite s (raise e s)
  | respond (status : Half) : MainWrite s (respond status s)
  | setLevel (c : Nat) (v : Byte) : MainWrite s (setLevel c v s)
  | setFade (c : Nat) (target speed : Byte) : MainWrite s (setFade c target speed s)
  | nvsWriteByte (a : Nat) (v : Byte) : MainWrite s (nvsWriteByte a v s)
  | setLatch : MainWrite s (s.setIpLatch true)
  | reboot : MainWrite s (s.setHalted .haltedReboot)
  | tookDraws (n : Nat) : MainWrite s (tookDraws n s)
  | serialSend : MainWrite s (serialSend s)
  | netSend : MainWrite s (netSend s)
  | clearMailboxes : MainWrite s (clearMailboxes s)
  | setArb (a : Arbitrator) : MainWrite s (s.setArb a)
  | pollSourcer (turn : Turn) : MainWrite s (pollSourcer turn s)
  | fadeChannel (c : Nat) : MainWrite s (fadeChannel c s)

/-- Writes of the main context, one after the other. -/
abbrev MainWrites : State → State → Prop := Relation.ReflTransGen MainWrite

/-- What every write keeps, every sequence of writes keeps. -/
theorem MainWrites.keeps {P : State → Prop} (hP : ∀ {s t}, MainWrite s t → P s → P t) {s t : State} (h : MainWrites s t)
    (hs : P s) : P t := by
  induction h with
  | refl => exact hs
  | tail _ hwrite ih => exact hP hwrite ih

/-! ## The handlers -/

theorem mainWrites_setGroup (g : Nat) (r1 r2 r3 : Byte) (s : State) : MainWrites s (setGroup g r1 r2 r3 s) :=
  ((((Relation.ReflTransGen.single (.setLevel g r1)).tail .boundary).tail (.setLevel (g + 1) r2)).tail .boundary).tail
    (.setLevel (g + 2) r3)

theorem mainWrites_rejectRange (s : State) : MainWrites s (rejectRange s) :=
  (Relation.ReflTransGen.single (.raise .channelRange)).tail (.respond STATUS_ERROR)

theorem mainWrites_commitByte (a : Nat) (old new : Byte) (s : State) : MainWrites s (commitByte a old new s) := by
  rw [commitByte]
  split
  · exact .single (.nvsWriteByte a new)
  · exact .refl

theorem mainWrites_commitBytes (a : Nat) (olds news : List Byte) (s : State) : MainWrites s (commitBytes a olds news s) := by
  induction olds generalizing a news s with
  | nil => exact .refl
  | cons old olds ih =>
    cases news with
    | nil => exact .refl
    | cons new news => exact (mainWrites_commitByte a old new s).trans (ih (a + 1) news _)

theorem mainWrites_route (s : State) : MainWrites s (route s) := by
  unfold route
  split
  · exact .single .serialSend
  · exact .single .netSend
  · exact .refl
  · exact .single (.raise .fatalState)

theorem mainWrites_exec {i : Instr} {s t : State} (h : exec i s = .next t) : MainWrites s t := by
  cases i with
  | test =>
    cases h
    exact .single (.respond STATUS_OK)
  | setch c v =>
    obtain rfl := Host.Outcome.next.inj h
    split
    · exact (Relation.ReflTransGen.single (.setLevel c.toNat v)).tail (.respond STATUS_OK)
    · exact mainWrites_rejectRange s
  | fade c target speed =>
    obtain rfl := Host.Outcome.next.inj h
    split
    · exact (Relation.ReflTransGen.single (.setFade c.toNat target speed)).tail (.respond STATUS_OK)
    · exact mainWrites_rejectRange s
  | setgrp g r1 r2 r3 =>
    obtain rfl := Host.Outcome.next.inj h
    split
    · exact (mainWrites_setGroup g.toNat r1 r2 r3 s).tail (.respond STATUS_OK)
    · exact mainWrites_rejectRange s
  | setip ip0 ip1 ip2 ip3 =>
    obtain rfl := Host.Outcome.next.inj h
    split
    · exact .single (.respond STATUS_ERROR)
    · split
      · exact ((mainWrites_commitBytes _ _ _ s).tail .setLatch).tail (.respond STATUS_OK)
      · exact .single (.respond STATUS_ERROR)
  | reboot =>
    cases h
    exact .single .reboot
  | resp status =>
    cases h
    exact (Relation.ReflTransGen.single (.respond status)).trans (mainWrites_route _)

/-! ## The arbitrator, the fade controller, the `Poll` -/

theorem mainWrites_dispatch {s : State} {d : Dispatched} (h : dispatch s = .next d) : MainWrites s d.state := by
  rcases dispatch_cases s with ⟨-, hd⟩ | ⟨-, -, hd⟩ | ⟨i, t, -, -, hexec, hd⟩ <;> cases hd.symm.trans h
  · exact .single (.raise .fatalConfig)
  · exact .refl
  · exact (mainWrites_exec hexec).head (.tookDraws _)

theorem mainWrites_arbIdle (s : State) : MainWrites s (arbIdle s) := by
  have hpolled : MainWrites s (pollSourcer s.arb.rr (s.setArb { s.arb with rr := s.arb.rr.next })) :=
    (Relation.ReflTransGen.single (.setArb _)).tail (.pollSourcer s.arb.rr)
  unfold arbIdle
  dsimp only
  split
  · exact hpolled.tail (.setArb _)
  · exact hpolled

theorem mainWrites_arbProcessing {s t : State} (h : arbProcessing s = .next t) : MainWrites s t := by
  obtain ⟨d, hd, ⟨-, rfl⟩ | ⟨-, u, hu, ht⟩⟩ := arbProcessing_cases h
  · exact mainWrites_dispatch hd
  · have hrouted : MainWrites s u := by
      rcases hu with rfl | rfl
      · exact mainWrites_dispatch hd
      · exact (mainWrites_dispatch hd).trans (mainWrites_route _)
    rcases ht with ⟨-, rfl⟩ | ⟨-, rfl⟩
    · exact hrouted.tail .clearMailboxes
    · exact hrouted

theorem mainWrites_arbStep {s t : State} (h : arbStep s = .next t) : MainWrites s t := by
  unfold arbStep at h
  split at h
  · cases h
    exact mainWrites_arbIdle s
  · exact mainWrites_arbProcessing h
  · cases h
    exact .single (.raise .fatalState)

theorem mainWrites_fadeStep (s : State) : MainWrites s (fadeStep s) := by
  rw [fadeStep]
  exact List.foldlRecOn (motive := MainWrites s) _ _ .refl fun _ ht c _ => (ht.tail (.fadeChannel c)).tail .boundary

/-- A `Poll` but for its list of interrupts: nothing in a halt, else the arbitrator's step and, where that did not halt, the boundary
and the fade step (43 R210). -/
theorem pollBody_cases {s u : State} (h : pollBody s = .next u) :
    (s.isRunning = false ∧ u = s) ∨
    (s.isRunning = true ∧ ∃ t, arbStep s = .next t ∧
      ((t.isRunning = true ∧ u = fadeStep (boundary t)) ∨ (t.isRunning = false ∧ u = t))) := by
  unfold pollBody at h
  split at h
  next hrun =>
    obtain ⟨t, ht, hu⟩ := andThen_eq_next.mp h
    obtain rfl := Host.Outcome.next.inj hu
    refine .inr ⟨hrun, t, ht, ?_⟩
    split
    next hrun' => exact .inl ⟨hrun', rfl⟩
    next hrun' => exact .inr ⟨Bool.eq_false_iff.mpr hrun', rfl⟩
  next hrun =>
    cases h
    exact .inl ⟨Bool.eq_false_iff.mpr hrun, rfl⟩

theorem mainWrites_pollBody {s t : State} (h : pollBody s = .next t) : MainWrites s t := by
  obtain ⟨-, rfl⟩ | ⟨-, u, hu, ⟨-, rfl⟩ | ⟨-, rfl⟩⟩ := pollBody_cases h
  · exact .refl
  · exact ((mainWrites_arbStep hu).tail .boundary).trans (mainWrites_fadeStep _)
  · exact mainWrites_arbStep hu

/-- A `Poll` is its body with the interrupts listed, and those left over at its end. -/
theorem poll_eq_next {arrivals : List (List Interrupt)} {s t : State} :
    poll arrivals s = .next t ↔
      ∃ u, pollBody (s.setSched { s.sched with arrivals := arrivals }) = .next u ∧ t = flushArrivals u := by
  unfold poll
  rw [andThen_eq_next]
  exact exists_congr fun u => and_congr_right fun _ => ⟨fun h => (Host.Outcome.next.inj h).symm, fun h => h ▸ rfl⟩

theorem flushArrivals_eq (s : State) :
    flushArrivals s = takeInterrupts s.sched.arrivals.flatten (s.setSched { s.sched with arrivals := [] }) := rfl

/-! ## No interrupt event is lost (60 R287) -/

/-- The plane there will be when every firing still listed has run. -/
def planeAtEnd (s : State) : BitVec 3 := s.bam.plane + BitVec.ofNat 3 (s.sched.arrivals.flatten.count .bamTick)

theorem takeInterrupts_plane (is : List Interrupt) (s : State) :
    (takeInterrupts is s).bam.plane = s.bam.plane + BitVec.ofNat 3 (is.count .bamTick) := by
  induction is generalizing s with
  | nil => exact (BitVec.add_zero _).symm
  | cons i is ih =>
    rw [takeInterrupts_cons, ih]
    cases i with
    | rxByte b =>
      rw [takeInterrupt, rxByte_eq, State.setRb_bam, List.count_cons_of_ne (by simp)]
    | bamTick =>
      rw [takeInterrupt, bamTick_plane, List.count_cons_self, BitVec.add_assoc, Nat.add_comm, BitVec.ofNat_add]
      rfl

theorem planeAtEnd_boundary (s : State) : planeAtEnd (boundary s) = planeAtEnd s := by
  cases h : s.sched.arrivals with
  | nil => rw [boundary_none h]
  | cons here later =>
    rw [planeAtEnd, planeAtEnd, boundary_sched, boundary_cons h, takeInterrupts_plane, h, List.flatten_cons, List.count_append,
      BitVec.ofNat_add, BitVec.add_assoc]
    rfl

theorem planeAtEnd_serialPoll (s : State) : planeAtEnd (serialPoll s) = planeAtEnd s := by
  rw [← planeAtEnd_boundary s]
  by_cases h : s.rb.available s.cfg.rbCap = 0
  · rw [serialPoll_of_none h, sfNoByte_frame]
    rfl
  · rw [serialPoll_of_held h, popAndJudge, sfByte_frame]
    rfl

theorem planeAtEnd_pollSourcer (turn : Turn) (s : State) : planeAtEnd (pollSourcer turn s) = planeAtEnd s := by
  cases turn with
  | digitalInput => rw [pollSourcer, diPoll_frame]; rfl
  | serial => exact planeAtEnd_serialPoll s
  | network => rw [pollSourcer, netPoll_frame]; rfl

/-- A write runs the firings it takes off the list. -/
theorem MainWrite.planeAtEnd_eq {s t : State} (h : MainWrite s t) : planeAtEnd t = planeAtEnd s := by
  cases h with
  | boundary => exact planeAtEnd_boundary s
  | raise e => rw [raise_eq]; rfl
  | pollSourcer turn => exact planeAtEnd_pollSourcer turn s
  | respond | setLevel | setFade | nvsWriteByte | setLatch | reboot | tookDraws | serialSend | netSend | clearMailboxes | setArb
  | fadeChannel => rfl

theorem MainWrites.planeAtEnd_eq {s t : State} (h : MainWrites s t) : planeAtEnd t = planeAtEnd s :=
  h.keeps (P := fun u => planeAtEnd u = planeAtEnd s) (fun hwrite hs => hwrite.planeAtEnd_eq.trans hs) rfl

theorem flushArrivals_plane (s : State) : (flushArrivals s).bam.plane = planeAtEnd s := by
  rw [flushArrivals_eq, takeInterrupts_plane]
  rfl

theorem flushArrivals_arrivals (s : State) : (flushArrivals s).sched.arrivals = [] := by
  rw [flushArrivals_frame]

/-! ## What only `Reset` undoes (10 R25) -/

theorem pollSourcer_ipLatch (turn : Turn) (s : State) : (pollSourcer turn s).ipLatch = s.ipLatch := by
  cases turn with
  | digitalInput => rw [pollSourcer, diPoll_frame]
  | serial => rw [pollSourcer, serialPoll_frame]
  | network => rw [pollSourcer, netPoll_frame]

theorem MainWrite.keeps_latch {s t : State} (h : MainWrite s t) (hs : s.ipLatch = true) : t.ipLatch = true := by
  cases h with
  | boundary => rwa [boundary_ipLatch]
  | raise e => rwa [raise_eq]
  | pollSourcer turn => rwa [pollSourcer_ipLatch]
  | setLatch => rfl
  | respond | setLevel | setFade | nvsWriteByte | reboot | tookDraws | serialSend | netSend | clearMailboxes | setArb
  | fadeChannel => exact hs

theorem isRunning_eq_true {s : State} : s.isRunning = true ↔ s.halted = .running := by
  rw [State.isRunning, beq_iff_eq]

/-- A halted main context takes no step (60 R300). -/
theorem pollBody_of_halted {s : State} (h : s.halted ≠ .running) : pollBody s = .next s :=
  if_neg (mt isRunning_eq_true.mp h)

theorem poll_of_halted {s : State} (h : s.halted ≠ .running) (arrivals : List (List Interrupt)) :
    poll arrivals s = .next (flushArrivals (s.setSched { s.sched with arrivals := arrivals })) :=
  poll_eq_next.mpr ⟨_, pollBody_of_halted h, rfl⟩

theorem flushArrivals_none {s : State} (h : s.sched.arrivals = []) : flushArrivals s = s := by
  rw [flushArrivals_eq, h]
  show s.setSched { s.sched with arrivals := [] } = s
  rw [← h]
  rfl

end Sys2Proof.Machine

namespace Sys2Proof

open Machine in
/-- Settles O17: no write of the main context changes the plane at the end, and at the end every listed firing has run. -/
theorem everyFiringInsideAPollRuns : Obligations.EveryFiringInsideAPollRuns := by
  intro arrivals s t h
  obtain ⟨u, hu, rfl⟩ := poll_eq_next.mp h
  rw [flushArrivals_plane, (mainWrites_pollBody hu).planeAtEnd_eq]
  exact ⟨rfl, flushArrivals_arrivals u⟩

open Machine in
/-- Settles O43: the body does nothing in a halt, and nothing is listed for its end. -/
theorem haltedPollDoesNothing : Obligations.HaltedPollDoesNothing := by
  intro s hhalt hlisted
  have hsame : s.setSched { s.sched with arrivals := [] } = s := by
    rw [← hlisted]
    rfl
  rw [poll_of_halted hhalt, hsame, flushArrivals_none hlisted]

open Machine in
/-- Settles O44: the main context's writes set the latch but never clear it, and in a halt there are none; no other move but `Reset`
writes either. -/
theorem onlyResetClearsLatchOrHalt : Obligations.OnlyResetClearsLatchOrHalt := by
  intro e s t he h
  cases e with
  | reset => exact absurd rfl he
  | interrupt i =>
    obtain rfl := Host.Outcome.next.inj h
    rw [takeInterrupt_frame]
    exact ⟨id, fun _ => rfl⟩
  | poll arrivals =>
    obtain ⟨u, hu, rfl⟩ := poll_eq_next.mp h
    rw [flushArrivals_frame]
    refine ⟨(mainWrites_pollBody hu).keeps (P := fun v => v.ipLatch = true) MainWrite.keeps_latch, fun hhalt => ?_⟩
    cases (pollBody_of_halted (s := s.setSched { s.sched with arrivals := arrivals }) hhalt).symm.trans hu
    rfl
  | pin | netData | netReadSize | netSession =>
    obtain rfl := Host.Outcome.next.inj h
    exact ⟨id, fun _ => rfl⟩

end Sys2Proof
end

section
/-! PROOFS. The datagram framer (42_datagram_and_digital_sourcers section 1): one read, its five tests, and silence. -/

namespace Sys2Proof.Machine

/-! ## The inbox a sourcer fills (20 R63) -/

theorem fillInbox_payload (code : Byte) (d : List Byte) (src : Source) (s : State) : (fillInbox code d src s).inbox.payload = d :=
  fill_payload s.inbox code d

/-! ## The five tests (42 R183) -/

theorem exists_framing_of_three_le {buf : List Byte} (h : 3 ≤ buf.length) : ∃ a c data ck, buf = a :: c :: (data ++ [ck]) := by
  match buf, h with
  | a :: c :: x :: l, _ =>
    obtain hnil | ⟨data, ck, hbody⟩ := List.eq_nil_or_concat (x :: l)
    · cases hnil
    · exact ⟨a, c, data, ck, by rw [hbody, List.concat_eq_append]⟩

/-- The tests on a read of three bytes or more, by its first two bytes, its last, and those between. -/
theorem datagramError_framing (a c ck : Byte) (data : List Byte) :
    datagramError (a :: c :: (data ++ [ck])) =
      if a ≠ START then some .badStart
      else if hasCommand c = false then some .unknownCode
      else if requiredLength c < data.length then some .netLength
      else if ck ≠ checksum a c data then some .badChecksum
      else none := by
  have hlen : (a :: c :: (data ++ [ck])).length = data.length + 3 := by simp
  have hstart : (a :: c :: (data ++ [ck])).getD 0 0 = a := rfl
  have hcode : (a :: c :: (data ++ [ck])).getD 1 0 = c := rfl
  have hlast : (a :: c :: (data ++ [ck])).getD (data.length + 2) 0 = ck := by simp [List.getD]
  have hdata : datagramData (a :: c :: (data ++ [ck])) = data := List.dropLast_concat
  rw [datagramError, hlen, if_neg (by omega), hdata, hstart, hcode, Nat.add_sub_cancel, Nat.add_sub_assoc (by decide), hlast]

/-- The read of a packet passes all tests but, if its data is too long, the length test. -/
theorem datagramError_packet {c : Byte} (hc : hasCommand c = true) (data : List Byte) :
    datagramError (packet c data) = if requiredLength c < data.length then some .netLength else none := by
  rw [packet, datagramError_framing, if_neg (by simp), if_neg (by simp [hc]), if_neg (c := _ ≠ _) (by simp)]

theorem datagramError_eq_none_iff {buf : List Byte} :
    datagramError buf = none ↔ ∃ c data, hasCommand c = true ∧ data.length ≤ requiredLength c ∧ buf = packet c data := by
  constructor
  · intro h
    by_cases hlen : buf.length < 3
    · rw [datagramError, if_pos hlen] at h
      cases h
    obtain ⟨a, c, data, ck, rfl⟩ := exists_framing_of_three_le (not_lt.mp hlen)
    rw [datagramError_framing] at h
    split_ifs at h with hstart hcode hlong hsum
    obtain rfl := not_not.mp hstart
    obtain rfl := not_not.mp hsum
    exact ⟨c, data, by simpa using hcode, not_lt.mp hlong, rfl⟩
  · rintro ⟨c, data, hc, hlen, rfl⟩
    rw [datagramError_packet hc, if_neg (not_lt.mpr hlen)]

/-! ## What a read leads to (42 R184, R185) -/

theorem netPacket_packet {c : Byte} {data : List Byte} (hc : hasCommand c = true) (hlen : data.length ≤ requiredLength c) (s : State) :
    netPacket (packet c data) s = fillInbox c data .network s := by
  have hdata : datagramData (packet c data) = data := List.dropLast_concat
  rw [netPacket, datagramError_eq_none_iff.mpr ⟨c, data, hc, hlen, rfl⟩]
  dsimp only
  rw [hdata]
  rfl

theorem netPacket_of_error {buf : List Byte} {e : Error} (h : datagramError buf = some e) (s : State) :
    netPacket buf s = (netClose (s.setLog (s.log ++ [e]))).setNfIdle 0 := by
  obtain ⟨hfatal, hlogged⟩ := datagramError_not_fatal h
  rw [netPacket, h, ← raise_of_logged hlogged hfatal]

theorem netPoll_of_readable {s : State} (h : s.env.net.rx ≠ []) :
    netPoll s = netPacket (netRead s).1 ((netRead s).2.setNfIdle 0) :=
  if_neg (mt List.eq_nil_of_length_eq_zero h)

theorem netPoll_of_silent {s : State} (h : s.env.net.rx = []) : netPoll s = netNoData s :=
  if_pos (by rw [h, List.length_nil])

/-! ## Silence (42 R181) -/

/-- Where nothing is unread, a close ends the session alone. -/
theorem netClose_of_silent {s : State} (h : s.env.net.rx = []) :
    netClose s = s.setEnv { s.env with net := { s.env.net with session := .closed, closes := s.env.net.closes + 1 } } := by
  simp only [netClose, h]

theorem netNoData_of_lt {s : State} (h : s.nfIdle < s.cfg.netTimeout) : netNoData s = s.setNfIdle (s.nfIdle + 1) := by
  have hcount : min (s.nfIdle + 1) (s.cfg.netTimeout + 1) = s.nfIdle + 1 := by omega
  rw [netNoData, hcount, if_neg (by omega)]

theorem netNoData_of_timeout {s : State} (h : s.cfg.netTimeout ≤ s.nfIdle) (hsession : s.env.net.session ≠ .listening) :
    netNoData s = (netClose (s.setLog (s.log ++ [.netTimeout]))).setNfIdle 0 := by
  have hcount : min (s.nfIdle + 1) (s.cfg.netTimeout + 1) = s.cfg.netTimeout + 1 := by omega
  rw [netNoData, hcount, if_pos ⟨Nat.lt_succ_self _, hsession⟩, raise_of_logged rfl rfl]

/-- Up to NET_TIMEOUT silent polls only count. -/
theorem iterate_netPoll_silent {s : State} (hrx : s.env.net.rx = []) (hzero : s.nfIdle = 0) {k : Nat} (hk : k ≤ s.cfg.netTimeout) :
    netPoll^[k] s = s.setNfIdle k := by
  induction k with
  | zero => exact congrArg s.setNfIdle hzero
  | succ k ih =>
    have hlt : (s.setNfIdle k).nfIdle < (s.setNfIdle k).cfg.netTimeout := hk
    rw [Function.iterate_succ_apply', ih (by omega), netPoll_of_silent (by exact hrx), netNoData_of_lt hlt]
    rfl

/-! ## One read (42 R182) -/

theorem clampRead_bounds {s : State} (hrx : s.env.net.rx ≠ []) (hmax : 1 ≤ s.cfg.maxPacket) (k : Nat) :
    1 ≤ clampRead s k ∧ clampRead s k ≤ s.env.net.rx.length ∧ clampRead s k ≤ s.cfg.maxPacket := by
  have hpos := List.length_pos_iff.mpr hrx
  rw [clampRead]
  omega

theorem readSize_bounds {s : State} (hrx : s.env.net.rx ≠ []) (hmax : 1 ≤ s.cfg.maxPacket) :
    1 ≤ readSize s ∧ readSize s ≤ s.env.net.rx.length ∧ readSize s ≤ s.cfg.maxPacket := by
  unfold readSize
  split <;> exact clampRead_bounds hrx hmax _

theorem netRead_state (s : State) :
    (netRead s).2 =
      { s with env := { s.env with net := { s.env.net with rx := (netRead s).2.env.net.rx, readSizes := s.env.net.readSizes.drop 1 } }
               sched := { s.sched with draws := (netRead s).2.sched.draws } } := by
  unfold netRead
  dsimp only
  split <;> rfl

end Sys2Proof.Machine

namespace Sys2Proof

open Machine in
/-- Settles O48: the tests accept the packets of at most the required length, and a poll gives them exactly one read. -/
theorem datagramAcceptedIffPacket : Obligations.DatagramAcceptedIffPacket := by
  refine ⟨fun buf => datagramError_eq_none_iff, fun s c data hc hlen => ?_,
    fun s hrx => ⟨netPoll_of_readable hrx, fun c data hc hlen hread => ?_⟩⟩
  · rw [netPacket_packet hc hlen]
    exact ⟨rfl, fillInbox_payload c data .network s, rfl, rfl⟩
  · rw [netPoll_of_readable hrx, hread, netPacket_packet hc hlen]
    exact ⟨rfl, fillInbox_payload c data .network _, rfl, rfl⟩

open Machine in
/-- Settles O49: the error of the first failing test is logged and not fatal, and the session is closed. -/
theorem badDatagramClosesTheSession : Obligations.BadDatagramClosesTheSession := by
  refine ⟨fun s buf e he => netPacket_of_error he s, fun s e hrx he => ?_⟩
  rw [netPoll_of_readable hrx, netPacket_of_error he]
  generalize (netRead s).2 = t
  rfl

open Machine in
/-- Settles O50: read as one packet, the first command's data is followed by its checksum and the whole second packet. -/
theorem mergedDatagramsFailTheLengthTest : Obligations.MergedDatagramsFailTheLengthTest := by
  intro i j hi hj
  have hmerged : encode i ++ encode j = START :: i.code :: ((i.data ++ checksum START i.code i.data :: START :: j.code :: j.data) ++
      [checksum START j.code j.data]) := by simp [encode, packet]
  rw [hmerged, datagramError_framing, if_neg (by simp), if_neg (by simp [hasCommand_code hi]), if_pos]
  rw [List.length_append, List.length_cons, length_data_of_command hi]
  omega

open Machine in
/-- Settles O51: the count goes up by one with each silent poll, and the poll that finds it at NET_TIMEOUT closes. -/
theorem netTimeoutClosesTheSession : Obligations.NetTimeoutClosesTheSession := by
  intro s hrx hsession hzero
  refine ⟨fun k hk => iterate_netPoll_silent hrx hzero hk, ?_⟩
  rw [Function.iterate_succ_apply', iterate_netPoll_silent hrx hzero le_rfl, netPoll_of_silent (by exact hrx),
    netNoData_of_timeout (by exact le_rfl) (by exact hsession), netClose_of_silent (by exact hrx), ← hzero]
  rfl

open Machine in
/-- Settles O52: the size, named or free, was brought into the bounds. -/
theorem oneReadIsBounded : Obligations.OneReadIsBounded := by
  intro s hrx hmax
  obtain ⟨hpos, havailable, hmost⟩ := readSize_bounds hrx hmax
  have hlen : (netRead s).1.length = readSize s := List.length_take_of_le havailable
  rw [hlen]
  exact ⟨hpos, hmost, List.take_append_drop (readSize s) s.env.net.rx, netRead_state s⟩

end Sys2Proof
end

section
/-! PROOFS. The invariant (Safety): the part every single write of the main context keeps, the part only a whole arbitrator step
keeps, and so every step of the machine; with reset, and the stops of ill-formed machines. -/

namespace Sys2Proof.Machine

/-! ## Ranges -/

theorem requiredLength_le (c : Byte) : requiredLength c ≤ 4 := by
  rw [requiredLength_eq]
  split_ifs <;> omega

/-- What a change of one entry keeps for the entry, it keeps for the list. -/
theorem forall_mem_modify {α : Type} {p : α → Prop} {f : α → α} (hf : ∀ x, p x → p (f x)) {l : List α} (hl : ∀ x ∈ l, p x)
    (c : Nat) : ∀ x ∈ l.modify c f, p x := by
  intro x hx
  obtain ⟨k, hk⟩ := List.mem_iff_getElem?.mp hx
  rw [List.getElem?_modify] at hk
  obtain ⟨y, hy, rfl⟩ := Option.map_eq_some_iff.mp hk
  have hpy := hl y (List.mem_of_getElem? hy)
  split
  · exact hf y hpy
  · exact hpy

/-- "The accumulator is never left at 255": saturation clears it (44 R232, R235). -/
theorem Channel.fade_accumulator_lt {x : Channel} (hx : x.fadeAccumulator.toNat < 255) : x.fade.fadeAccumulator.toNat < 255 := by
  rw [Channel.fade]
  split
  · exact hx
  · split
    · exact Nat.zero_lt_succ 254
    next hsum =>
      have hlt : fadeSum x < 255 := lt_of_le_of_ne (Nat.min_le_right _ _) hsum
      show (BitVec.ofNat 8 (fadeSum x)).toNat < 255
      rw [BitVec.toNat_ofNat]
      omega

theorem parametersOk_iff {c : Config} :
    parametersOk c = true ↔ 3 ≤ c.numChannels ∧ c.numChannels ≤ 255 ∧ 1 ≤ c.rbCap ∧ 1 ≤ c.serTimeout ∧ 7 ≤ c.maxPacket ∧
      c.bind.length ≤ c.maxBindings ∧ c.histReset.length = c.bind.length := by
  simp [parametersOk, and_assoc]

theorem commandOk_iff {c : Command} : commandOk c = true ↔ c.data.length = MAX_DATA ∧ c.len ≤ MAX_DATA := by
  simp [commandOk]

theorem shape_iff {s : State} :
    s.shape = true ↔ s.ch.length = s.cfg.numChannels ∧ s.bam.pwm.length = s.cfg.numChannels ∧ commandOk s.inbox = true ∧
      commandOk s.outbox = true ∧ s.sf.buf.length = MAX_DATA ∧ s.sf.len ≤ MAX_DATA ∧ s.sf.idle ≤ s.cfg.serTimeout ∧
      s.rb.head < s.cfg.rbCap ∧ s.rb.tail < s.cfg.rbCap ∧ s.rb.mem.wf = true ∧ s.nfIdle ≤ s.cfg.netTimeout + 1 ∧
      s.di.idx < max s.cfg.bind.length 1 ∧ s.di.hist.length = s.cfg.bind.length ∧ s.env.nvs.wf = true ∧ s.sched.arrivals = [] := by
  simp [State.shape, and_assoc]

theorem Steppable.arrivals_eq_nil {s : State} (h : Steppable s) : s.sched.arrivals = [] := by
  obtain ⟨-, -, -, -, -, -, -, -, -, -, -, -, -, -, hlisted⟩ := shape_iff.mp h.shape
  exact hlisted

theorem bindingOk_of_getElem? {c : Config} (hc : bindingsOk c = true) {k : Nat} {b : Binding} (hb : c.bind[k]? = some b) :
    b.data.length ≤ MAX_DATA ∧ (hasCommand b.code = true → b.data.length = requiredLength b.code) := by
  have hok := List.all_eq_true.mp hc b (List.mem_of_getElem? hb)
  rw [bindingOk, Bool.and_eq_true, decide_eq_true_eq, Bool.or_eq_true, Bool.not_eq_true', beq_iff_eq] at hok
  obtain ⟨hlen, hcode⟩ := hok
  exact ⟨hlen, fun h => hcode.resolve_left (by simp [h])⟩

/-! ## The two parts of the invariant -/

/-- What each write of the main context and each interrupt keeps: parameters, lengths, ranges, the ring, the framer, the store. -/
structure BlockOk (s : State) : Prop where
  parameters   : parametersOk s.cfg = true
  bindings     : bindingsOk s.cfg = true
  ch_length    : s.ch.length = s.cfg.numChannels
  accumulators : ∀ x ∈ s.ch, x.fadeAccumulator.toNat < 255
  pwm_length   : s.bam.pwm.length = s.cfg.numChannels
  inbox        : commandOk s.inbox = true
  inbox_len    : hasCommand s.inbox.code = true → s.inbox.len ≤ requiredLength s.inbox.code
  outbox       : commandOk s.outbox = true
  buf_length   : s.sf.buf.length = MAX_DATA
  framer       : FramerOk s.sf
  idle_lt      : s.sf.idle < s.cfg.serTimeout
  ring         : RingOk s.cfg.rbCap s.rb
  nfIdle_le    : s.nfIdle ≤ s.cfg.netTimeout + 1
  idx_lt       : s.di.idx < max s.cfg.bind.length 1
  hist_length  : s.di.hist.length = s.cfg.bind.length
  nvs          : s.env.nvs.wf = true

/-- What the arbitrator's steps keep but its single writes do not: the mailboxes and the halt agree with its state. -/
structure ControlOk (s : State) : Prop where
  mailbox : MailboxOk s
  halt    : s.halted ≠ .running → s.arb.state = .processing

/-- A framer that has read no data byte. -/
theorem FramerOk.of_rest {f : SerialFramer} (hstate : f.state = .idle ∨ f.state = .gotStart) (hlen : f.len = 0) : FramerOk f where
  rest _ := hlen
  reading hreading := by simp [hreading] at hstate
  complete hcomplete := by simp [hcomplete] at hstate

theorem FramerOk.setIdle {f : SerialFramer} (h : FramerOk f) (n : Nat) : FramerOk { f with idle := n } :=
  ⟨h.rest, h.reading, h.complete⟩

/-- The framer counts no more bytes than its code needs (41 R160). -/
theorem FramerOk.len_le {f : SerialFramer} (h : FramerOk f) : f.len ≤ 4 := by
  cases hstate : f.state with
  | idle => rw [h.rest (.inl hstate)]; exact Nat.zero_le 4
  | gotStart => rw [h.rest (.inr hstate)]; exact Nat.zero_le 4
  | readingData => exact (h.reading hstate).2.le.trans (requiredLength_le f.code)
  | gotData => exact (h.complete hstate).2.le.trans (requiredLength_le f.code)

theorem Inv.blockOk {s : State} (h : Inv s) : BlockOk s := by
  obtain ⟨hch, hpwm, hin, hout, hbuf, -, -, -, -, -, hnf, hidx, hhist, hnvs, -⟩ := shape_iff.mp h.shape
  exact ⟨h.parameters, h.bindings, hch, h.accumulators, hpwm, hin, h.inbox_len, hout, hbuf, h.framer, h.idle_lt, h.ring, hnf, hidx,
    hhist, hnvs⟩

theorem Inv.controlOk {s : State} (h : Inv s) : ControlOk s := ⟨h.mailbox, h.halt⟩

theorem Inv.steppable {s : State} (h : Inv s) : Steppable s := ⟨h.parameters, h.bindings, h.shape⟩

/-- The two parts, with nothing left over from a `Poll`, are the invariant. -/
theorem BlockOk.inv {s : State} (h : BlockOk s) (hc : ControlOk s) (hlisted : s.sched.arrivals = []) : Inv s where
  parameters := h.parameters
  bindings := h.bindings
  shape := shape_iff.mpr ⟨h.ch_length, h.pwm_length, h.inbox, h.outbox, h.buf_length, h.framer.len_le.trans (by decide), h.idle_lt.le,
    h.ring.head_lt, h.ring.tail_lt, h.ring.mem_wf, h.nfIdle_le, h.idx_lt, h.hist_length, h.nvs, hlisted⟩
  ring := h.ring
  mailbox := hc.mailbox
  framer := h.framer
  idle_lt := h.idle_lt
  inbox_len := h.inbox_len
  accumulators := h.accumulators
  halt := hc.halt

/-! ## Every write keeps the first part -/

section
variable {s : State} (h : BlockOk s)
include h

theorem BlockOk.setSched (v : Schedule) : BlockOk (s.setSched v) := { h with }

theorem BlockOk.setArb (v : Arbitrator) : BlockOk (s.setArb v) := { h with }

theorem BlockOk.setLog (v : List Error) : BlockOk (s.setLog v) := { h with }

theorem BlockOk.raise (e : Error) : BlockOk (raise e s) := by
  rw [raise_eq]
  exact { h with }

theorem BlockOk.setRb {r : Ring} (hr : RingOk s.cfg.rbCap r) : BlockOk (s.setRb r) := { h with ring := hr }

theorem BlockOk.setSf {f : SerialFramer} (hbuf : f.buf.length = MAX_DATA) (hf : FramerOk f) (hidle : f.idle < s.cfg.serTimeout) :
    BlockOk (s.setSf f) :=
  { h with buf_length := hbuf, framer := hf, idle_lt := hidle }

theorem BlockOk.setEnv {env : Environment} (henv : env.nvs.wf = true) : BlockOk (s.setEnv env) := { h with nvs := henv }

theorem BlockOk.setNfIdle {n : Nat} (hn : n ≤ s.cfg.netTimeout + 1) : BlockOk (s.setNfIdle n) := { h with nfIdle_le := hn }

theorem BlockOk.modifyCh {f : Channel → Channel} (hf : ∀ x, x.fadeAccumulator.toNat < 255 → (f x).fadeAccumulator.toNat < 255)
    (c : Nat) : BlockOk (s.setCh (s.ch.modify c f)) :=
  { h with ch_length := (List.length_modify ..).trans h.ch_length
           accumulators := forall_mem_modify hf h.accumulators c }

theorem BlockOk.fillInbox {code : Byte} {d : List Byte} (hd : d.length ≤ MAX_DATA)
    (hcode : hasCommand code = true → d.length ≤ requiredLength code) (src : Source) : BlockOk (fillInbox code d src s) :=
  { h with inbox := commandOk_fill h.inbox hd, inbox_len := hcode }

theorem BlockOk.respond (status : Half) : BlockOk (respond status s) :=
  { h with outbox := commandOk_fill h.outbox (d := [hiByte status, loByte status]) (by simp) }

theorem BlockOk.nvsWriteByte (a : Nat) (v : Byte) : BlockOk (nvsWriteByte a v s) := h.setEnv (Memory.wf_write h.nvs a v)

theorem BlockOk.clearMailboxes : BlockOk (clearMailboxes s) :=
  { h with inbox := h.inbox, inbox_len := h.inbox_len
           outbox := commandOk_iff.mpr ⟨(commandOk_iff.mp h.outbox).1, Nat.zero_le _⟩ }

theorem BlockOk.takeInterrupt (i : Interrupt) : BlockOk (takeInterrupt i s) := by
  cases i with
  | rxByte b =>
    rw [Machine.takeInterrupt, rxByte_eq]
    exact h.setRb (h.ring.push b)
  | bamTick => exact { h with pwm_length := (List.length_map _).trans h.ch_length }

theorem BlockOk.takeInterrupts (is : List Interrupt) : BlockOk (takeInterrupts is s) := by
  induction is generalizing s with
  | nil => exact h
  | cons i is ih => exact ih (h.takeInterrupt i)

theorem BlockOk.boundary : BlockOk (boundary s) := by
  cases hlisted : s.sched.arrivals with
  | nil => rwa [boundary_none hlisted]
  | cons here later =>
    rw [boundary_cons hlisted]
    exact (h.setSched _).takeInterrupts here

theorem BlockOk.flushArrivals : BlockOk (flushArrivals s) := (h.setSched _).takeInterrupts _

/-! ### The serial sourcer -/

theorem BlockOk.sfReset : BlockOk (sfReset s) :=
  h.setSf h.buf_length (.of_rest (.inl rfl) rfl) h.idle_lt

theorem BlockOk.sfIdleByte (hstate : s.sf.state = .idle) (b : Byte) : BlockOk (sfIdleByte b s) := by
  rw [Machine.sfIdleByte]
  split
  · exact h.setSf h.buf_length (.of_rest (.inr rfl) (h.framer.rest (.inl hstate))) h.idle_lt
  · exact (h.raise .badStart).sfReset

theorem BlockOk.sfCodeByte (b : Byte) : BlockOk (sfCodeByte b s) := by
  rw [Machine.sfCodeByte]
  split
  next hb =>
    refine h.setSf h.buf_length ⟨fun _ => rfl, fun hnew => ⟨hb, ?_⟩, fun hnew => ⟨hb, ?_⟩⟩ h.idle_lt <;> dsimp only at hnew
    · by_contra hzero
      rw [if_neg (by exact hzero)] at hnew
      cases hnew
    · by_contra hne
      rw [if_pos (Nat.pos_of_ne_zero (Ne.symm hne))] at hnew
      cases hnew
  · exact (h.raise .unknownCode).sfReset

theorem BlockOk.sfDataByte (hstate : s.sf.state = .readingData) (b : Byte) : BlockOk (sfDataByte b s) := by
  obtain ⟨hcode, hlt⟩ := h.framer.reading hstate
  rw [Machine.sfDataByte, hstate]
  refine h.setSf ((List.length_set ..).trans h.buf_length) ⟨?_, fun hnew => ⟨hcode, ?_⟩, fun hnew => ⟨hcode, ?_⟩⟩ h.idle_lt
  · split <;> simp
  · by_contra hge
    rw [if_pos (by dsimp only at hge ⊢; omega)] at hnew
    cases hnew
  · by_contra hne
    rw [if_neg hne] at hnew
    cases hnew

theorem BlockOk.sfChecksumByte (hstate : s.sf.state = .gotData) (b : Byte) : BlockOk (sfChecksumByte b s) := by
  have hlen : (s.sf.buf.take s.sf.len).length ≤ s.sf.len := List.length_take_le _ _
  have hmax : s.sf.len ≤ MAX_DATA := h.framer.len_le.trans (by decide)
  rw [Machine.sfChecksumByte]
  split
  · exact (h.fillInbox (hlen.trans hmax) (fun _ => hlen.trans (h.framer.complete hstate).2.le) .serial).sfReset
  · exact (h.raise .badChecksum).sfReset

theorem BlockOk.sfByte (b : Byte) : BlockOk (sfByte b s) := by
  unfold Machine.sfByte
  split
  next hstate => exact h.sfIdleByte hstate b
  next => exact h.sfCodeByte b
  next hstate => exact h.sfDataByte hstate b
  next hstate => exact h.sfChecksumByte hstate b

/-- The count is below SER_TIMEOUT again after every poll: the one that would reach it starts it over (41 R163). -/
theorem BlockOk.sfNoByte : BlockOk (sfNoByte s) := by
  obtain ⟨-, -, -, hpos, -⟩ := parametersOk_iff.mp h.parameters
  rw [sfNoByte_eq]
  split
  · split
    · exact h.setSf h.buf_length (h.framer.setIdle 0) hpos
    · exact (h.setLog _).setSf h.buf_length (.of_rest (.inl rfl) rfl) hpos
  next hne => exact h.setSf h.buf_length (h.framer.setIdle _) (lt_of_le_of_ne h.idle_lt hne)

theorem BlockOk.popAndJudge : BlockOk (popAndJudge s) := by
  have hpopped := h.setRb h.ring.pop
  have hcleared := hpopped.setSf (f := { s.sf with idle := 0 }) h.buf_length (h.framer.setIdle 0)
    (Nat.zero_lt_of_lt h.idle_lt)
  exact hcleared.sfByte _

theorem BlockOk.serialPoll : BlockOk (serialPoll s) := by
  by_cases hnone : s.rb.available s.cfg.rbCap = 0
  · rw [serialPoll_of_none hnone]
    exact h.boundary.sfNoByte
  · rw [serialPoll_of_held hnone]
    exact h.boundary.popAndJudge

/-! ### The network and pin sourcers -/

theorem BlockOk.netClose : BlockOk (netClose s) := h.setEnv h.nvs

theorem BlockOk.netNoData : BlockOk (netNoData s) := by
  rw [Machine.netNoData]
  split
  · exact (h.raise .netTimeout).netClose.setNfIdle (Nat.zero_le _)
  · exact h.setNfIdle (Nat.min_le_right _ _)

theorem BlockOk.netPacket (buf : List Byte) : BlockOk (netPacket buf s) := by
  cases he : datagramError buf with
  | none =>
    obtain ⟨c, data, hc, hlen, rfl⟩ := datagramError_eq_none_iff.mp he
    rw [netPacket_packet hc hlen]
    exact h.fillInbox (hlen.trans ((requiredLength_le c).trans (by decide))) (fun _ => hlen) .network
  | some e =>
    rw [netPacket_of_error he]
    exact (h.setLog _).netClose.setNfIdle (Nat.zero_le _)

theorem BlockOk.netRead : BlockOk (netRead s).2 := by
  rw [netRead_state]
  exact { h with }

theorem BlockOk.netPoll : BlockOk (netPoll s) := by
  by_cases hrx : s.env.net.rx = []
  · rw [netPoll_of_silent hrx]
    exact h.netNoData
  · rw [netPoll_of_readable hrx]
    exact (h.netRead.setNfIdle (Nat.zero_le _)).netPacket _

theorem BlockOk.diPoll : BlockOk (diPoll s) := by
  rw [Machine.diPoll]
  split
  next b hb =>
    obtain ⟨hlen, hcode⟩ := bindingOk_of_getElem? h.bindings hb
    obtain ⟨hidx, -⟩ := List.getElem?_eq_some_iff.mp hb
    have hsampled : BlockOk ((readPin b.pin s).2.setDi
        { idx := (s.di.idx + 1) % s.cfg.bind.length, hist := s.di.hist.set s.di.idx (readPin b.pin s).1 }) := by
      rw [readPin_frame]
      exact { h with idx_lt := lt_max_of_lt_left (Nat.mod_lt _ (Nat.zero_lt_of_lt hidx))
                     hist_length := (List.length_set ..).trans h.hist_length }
    rw [samplePin]
    split
    · exact hsampled.fillInbox hlen (fun hb => (hcode hb).le) .digitalInput
    · exact hsampled
  · exact h

theorem BlockOk.pollSourcer (turn : Turn) : BlockOk (pollSourcer turn s) := by
  cases turn with
  | digitalInput => exact h.diPoll
  | serial => exact h.serialPoll
  | network => exact h.netPoll

end

theorem MainWrite.keeps_blockOk {s t : State} (hwrite : MainWrite s t) (h : BlockOk s) : BlockOk t := by
  cases hwrite with
  | boundary => exact h.boundary
  | raise e => exact h.raise e
  | respond status => exact h.respond status
  | setLevel c v => exact h.modifyCh (f := fun x => { x with current := v, target := v }) (fun _ hx => hx) c
  | setFade c target speed => exact h.modifyCh (f := fun x => { x with target := target, fadeSpeed := speed }) (fun _ hx => hx) c
  | nvsWriteByte a v => exact h.nvsWriteByte a v
  | netSend => exact h.setEnv h.nvs
  | clearMailboxes => exact h.clearMailboxes
  | setArb a => exact h.setArb a
  | pollSourcer turn => exact h.pollSourcer turn
  | fadeChannel c => exact h.modifyCh (fun _ hx => Channel.fade_accumulator_lt hx) c
  | setLatch | reboot | tookDraws | serialSend => exact { h with }

/-! ## Every arbitrator step keeps the second part -/

theorem ControlOk.congr {s t : State} (h : ControlOk s) (harb : t.arb = s.arb) (hin : t.inbox = s.inbox)
    (hout : t.outbox = s.outbox) (hhalt : t.halted = s.halted) : ControlOk t := by
  obtain ⟨⟨hiff, hidle, hdefined⟩, hhalts⟩ := h
  rw [← harb, ← hin] at hiff
  rw [← harb, ← hout] at hidle
  rw [← harb] at hdefined
  rw [← harb, ← hhalt] at hhalts
  exact ⟨⟨hiff, hidle, hdefined⟩, hhalts⟩

theorem ControlOk.of_processing {t : State} (hstate : t.arb.state = .processing) (hsource : t.inbox.source ≠ .none) : ControlOk t :=
  ⟨⟨iff_of_true hstate hsource, fun hidle => (nomatch hstate.symm.trans hidle), fun hundef => (nomatch hstate.symm.trans hundef)⟩,
    fun _ => hstate⟩

theorem ControlOk.of_idle {t : State} (hstate : t.arb.state = .idle) (hsource : t.inbox.source = .none) (hout : t.outbox.len = 0)
    (hrun : t.halted = .running) : ControlOk t :=
  ⟨⟨iff_of_false (fun hproc => nomatch hstate.symm.trans hproc) (not_not.mpr hsource), fun _ => hout,
    fun hundef => (nomatch hstate.symm.trans hundef)⟩, fun hhalt => absurd hrun hhalt⟩

theorem arbIdle_controlOk {s : State} (h : ControlOk s) (hrun : s.halted = .running) (hstate : s.arb.state = .idle) :
    ControlOk (arbIdle s) := by
  have hsource : s.inbox.source = .none := by
    by_contra hne
    cases hstate.symm.trans (h.mailbox.processing_iff.mpr hne)
  obtain ⟨t, ht, harb, -, -, -, -, hout, -, hhalt, -⟩ := arbIdle_spec s hsource
  rw [ht]
  split
  next hfull => exact .of_processing (t := t.setArb _) rfl hfull
  next hempty =>
    exact .of_idle (by rw [harb, hstate]) (not_not.mp hempty) (by rw [hout, h.mailbox.idle_outbox hstate]) (hhalt.trans hrun)

theorem arbProcessing_controlOk {s t : State} (h : ControlOk s) (hstate : s.arb.state = .processing) (ht : arbProcessing s = .next t) :
    ControlOk t := by
  have hsource := h.mailbox.processing_iff.mp hstate
  obtain ⟨d, hd, hcases⟩ := arbProcessing_cases ht
  have hdarb : d.state.arb = s.arb := by rw [dispatch_frame hd]
  have hdin : d.state.inbox = s.inbox := by rw [dispatch_frame hd]
  obtain ⟨-, rfl⟩ | ⟨-, u, hu, ⟨hrun, rfl⟩ | ⟨-, rfl⟩⟩ := hcases
  · exact .of_processing (by rw [hdarb, hstate]) (by rwa [hdin])
  · exact .of_idle rfl rfl rfl (isRunning_eq_true.mp hrun)
  · obtain rfl | rfl := hu
    · exact .of_processing (by rw [hdarb, hstate]) (by rwa [hdin])
    · rw [route_frame]
      exact .of_processing (by rw [hdarb, hstate]) (by rwa [hdin])

theorem arbStep_controlOk {s t : State} (h : ControlOk s) (hrun : s.halted = .running) (ht : arbStep s = .next t) : ControlOk t := by
  cases hstate : s.arb.state with
  | idle =>
    rw [arbStep, hstate] at ht
    cases ht
    exact arbIdle_controlOk h hrun hstate
  | processing =>
    rw [arbStep, hstate] at ht
    exact arbProcessing_controlOk h hstate ht
  | undefinedState => exact absurd hstate h.mailbox.defined

theorem pollBody_controlOk {s u : State} (h : ControlOk s) (hu : pollBody s = .next u) : ControlOk u := by
  obtain ⟨-, rfl⟩ | ⟨hrun, t, ht, htail⟩ := pollBody_cases hu
  · exact h
  · have hstep := arbStep_controlOk h (isRunning_eq_true.mp hrun) ht
    obtain ⟨-, rfl⟩ | ⟨-, rfl⟩ := htail
    · rw [fadeStep_frame]
      exact hstep.congr (boundary_arb t) (boundary_inbox t) (boundary_outbox t) (boundary_halted t)
    · exact hstep

/-! ## Reset (10 R40) -/

theorem resetIn_blockOk {c : Config} {env : Environment} (sched : Schedule) (hc : parametersOk c = true) (hb : bindingsOk c = true)
    (henv : env.nvs.wf = true) : BlockOk (State.resetIn c env sched) := by
  obtain ⟨-, -, hcap, htimeout, -, -, hhist⟩ := parametersOk_iff.mp hc
  exact {
    parameters := hc
    bindings := hb
    ch_length := List.length_replicate
    accumulators := fun x hx => by rw [List.eq_of_mem_replicate hx]; decide
    pwm_length := List.length_replicate
    inbox := rfl
    inbox_len := fun _ => Nat.zero_le _
    outbox := rfl
    buf_length := rfl
    framer := .of_rest (.inl rfl) rfl
    idle_lt := htimeout
    ring := ⟨hcap, hcap, fun _ => ⟨rfl, rfl⟩, nofun, fun hne => absurd rfl hne, fun _ => .inl rfl, rfl, nofun⟩
    nfIdle_le := Nat.zero_le _
    idx_lt := lt_max_of_lt_right Nat.one_pos
    hist_length := hhist
    nvs := henv }

theorem resetIn_inv {c : Config} {env : Environment} {sched : Schedule} (hc : parametersOk c = true) (hb : bindingsOk c = true)
    (henv : env.nvs.wf = true) (hlisted : sched.arrivals = []) : Inv (State.resetIn c env sched) :=
  (resetIn_blockOk sched hc hb henv).inv (.of_idle rfl rfl rfl rfl) hlisted

/-! ## Every move keeps the invariant -/

theorem inv_setSched {s : State} (h : Inv s) {v : Schedule} (hlisted : v.arrivals = []) : Inv (s.setSched v) :=
  (h.blockOk.setSched v).inv (h.controlOk.congr rfl rfl rfl rfl) hlisted

theorem nextEvent_inv {s : State} (h : Inv s) : Inv (nextEvent s).2 := by
  unfold nextEvent
  split <;> exact inv_setSched h h.steppable.arrivals_eq_nil

theorem takeInterrupt_inv {s : State} (h : Inv s) (i : Interrupt) : Inv (takeInterrupt i s) := by
  have hblock := h.blockOk.takeInterrupt i
  rw [takeInterrupt_frame] at hblock ⊢
  exact hblock.inv (h.controlOk.congr rfl rfl rfl rfl) h.steppable.arrivals_eq_nil

theorem poll_inv {s t : State} (h : Inv s) {arrivals : List (List Interrupt)} (ht : poll arrivals s = .next t) : Inv t := by
  obtain ⟨u, hu, rfl⟩ := poll_eq_next.mp ht
  have hblock : BlockOk u := (mainWrites_pollBody hu).keeps MainWrite.keeps_blockOk (h.blockOk.setSched _)
  have hcontrol : ControlOk u :=
    pollBody_controlOk (s := s.setSched { s.sched with arrivals := arrivals }) (h.controlOk.congr rfl rfl rfl rfl) hu
  refine hblock.flushArrivals.inv ?_ (flushArrivals_arrivals u)
  rw [flushArrivals_frame]
  exact hcontrol.congr rfl rfl rfl rfl

theorem setEnv_inv {s : State} (h : Inv s) {env : Environment} (henv : env.nvs.wf = true) : Inv (s.setEnv env) :=
  (h.blockOk.setEnv henv).inv (h.controlOk.congr rfl rfl rfl rfl) h.steppable.arrivals_eq_nil

theorem runEvent_inv {s t : State} (h : Inv s) {e : Event} (ht : runEvent e s = .next t) : Inv t := by
  cases e with
  | poll arrivals => exact poll_inv h ht
  | interrupt i =>
    obtain rfl := Host.Outcome.next.inj ht
    exact takeInterrupt_inv h i
  | reset =>
    obtain rfl := Host.Outcome.next.inj ht
    exact resetIn_inv h.parameters h.bindings h.blockOk.nvs rfl
  | pin | netData | netReadSize | netSession =>
    obtain rfl := Host.Outcome.next.inj ht
    exact setEnv_inv h h.blockOk.nvs

/-! ## Which steps stop (93 U11, U18) -/

theorem step_of_wellFormed {s : State} (hs : Steppable s) : step s = runEvent (nextEvent s).1 (nextEvent s).2 := by
  rw [step, stepChecked, if_neg (by simp [hs.parameters]), if_neg (by simp [hs.bindings]), if_neg (by simp [hs.shape])]

theorem arbProcessing_next (s : State) : ∃ t, arbProcessing s = .next t := by
  have hdispatch : ∃ d, dispatch s = .next d := by
    rcases dispatch_cases s with ⟨-, hd⟩ | ⟨-, -, hd⟩ | ⟨i, t, -, -, -, hd⟩ <;> exact ⟨_, hd⟩
  obtain ⟨d, hd⟩ := hdispatch
  rw [arbProcessing, hd, andThen_next]
  split <;> exact ⟨_, rfl⟩

theorem arbStep_next (s : State) : ∃ t, arbStep s = .next t := by
  unfold arbStep
  split
  · exact ⟨_, rfl⟩
  · exact arbProcessing_next s
  · exact ⟨_, rfl⟩

theorem poll_next (arrivals : List (List Interrupt)) (s : State) : ∃ t, poll arrivals s = .next t := by
  obtain ⟨u, hu⟩ : ∃ u, pollBody (s.setSched { s.sched with arrivals := arrivals }) = .next u := by
    obtain ⟨t, ht⟩ := arbStep_next (s.setSched { s.sched with arrivals := arrivals })
    rw [pollBody]
    split
    · rw [ht]
      exact ⟨_, rfl⟩
    · exact ⟨_, rfl⟩
  exact ⟨_, poll_eq_next.mpr ⟨u, hu, rfl⟩⟩

theorem runEvent_next (e : Event) (s : State) : ∃ t, runEvent e s = .next t := by
  cases e with
  | poll arrivals => exact poll_next arrivals s
  | interrupt | reset | pin | netData | netReadSize | netSession => exact ⟨_, rfl⟩

theorem step_next {s : State} (hs : Steppable s) : ∃ t, step s = .next t := by
  rw [step_of_wellFormed hs]
  exact runEvent_next _ _

theorem step_inv {s t : State} (h : Inv s) (ht : step s = .next t) : Inv t := by
  rw [step_of_wellFormed h.steppable] at ht
  exact runEvent_inv (nextEvent_inv h) ht

theorem run_succ {M : Host.Core} {s t : M.State} (h : M.step s = .next t) (k : Nat) : M.run (k + 1) s = M.run k t := by
  rw [Host.Core.run, h]

/-- A good state's step is a good state's, so every run from it goes on. -/
theorem neverStops_of_inv {s : State} (h : Inv s) : NeverStops s := by
  intro k
  induction k generalizing s with
  | zero => exact ⟨s, rfl⟩
  | succ k ih =>
    obtain ⟨t, ht⟩ := step_next h.steppable
    obtain ⟨u, hu⟩ := ih (step_inv h ht)
    exact ⟨u, (run_succ (M := core) ht k).trans hu⟩

end Sys2Proof.Machine

namespace Sys2Proof

open Machine in
/-- Settles O57: each write of a `Poll` keeps the block's part of the invariant, its arbitrator step keeps the control part, and the
fade step and the interrupts do not touch what that speaks of. -/
theorem everyStepKeepsTheInvariant : Obligations.EveryStepKeepsTheInvariant :=
  fun _ _ h ht => step_inv h ht

open Machine in
/-- Settles O58: the invariant makes a step, and the step keeps the invariant. -/
theorem goodStatesNeverStop : Obligations.GoodStatesNeverStop :=
  fun _ h => neverStops_of_inv h

open Machine in
/-- Settles O56: every table value of `resetIn` is in range; the reference parameters and the empty store are well formed. -/
theorem resetStateIsGood : Obligations.ResetStateIsGood :=
  ⟨fun _ _ _ hc hb henv hlisted => resetIn_inv hc hb henv hlisted, resetIn_inv (by decide) (by decide) (by decide) rfl⟩

open Machine in
/-- Settles O55: a well-formed machine's step is its next listed move, and `resetIn` is the table. -/
theorem resetRestoresTheTable : Obligations.ResetRestoresTheTable := by
  intro s later hs he
  have hzero : ∀ b ∈ List.replicate MAX_DATA (0 : Byte), b = 0 := fun _ hb => List.eq_of_mem_replicate hb
  refine ⟨_, step_of_steppable hs he, rfl, rfl, ?_, List.length_replicate, fun x hx => ?_, rfl, rfl, List.length_replicate,
    fun p hp => List.eq_of_mem_replicate hp, rfl, rfl, rfl, rfl, rfl, rfl, rfl, hzero, hzero, rfl, rfl, rfl, rfl, hzero,
    rfl, rfl, rfl, rfl, rfl, rfl, rfl, rfl, rfl, rfl, rfl⟩
  · exact congrArg (fun arrivals => { s.sched with events := later, arrivals := arrivals }) hs.arrivals_eq_nil.symm
  · rw [List.eq_of_mem_replicate hx]
    exact ⟨rfl, rfl, rfl, rfl⟩

open Machine in
/-- Settles O59: the checks come in this order, and past them every move has a next state. -/
theorem illFormedMachinesAreRefused : Obligations.IllFormedMachinesAreRefused := by
  intro s
  refine ⟨fun hc => if_pos hc, fun hc hb => ?_, fun hc hb hs => ?_, step_next⟩
  · rw [step, stepChecked, if_neg (by simp [hc]), if_pos hb]
  · rw [step, stepChecked, if_neg (by simp [hc]), if_neg (by simp [hb]), if_pos hs]

end Sys2Proof
end

section
/-! PROOFS. The serial framer (41_serial_framer section 3): what it does with each byte, with silence, and with a whole command. -/

namespace Sys2Proof.Machine

/-! ## One byte in each state (41 R158 to R161) -/

/-- A byte that the state does not accept: logged under its name, and length and state reset (41 R162, R164). -/
def sfFail (e : Error) (s : State) : State := (s.setLog (s.log ++ [e])).setSf { s.sf with state := .idle, len := 0 }

section
variable {s : State} {b : Byte}

theorem sfByte_start (hs : s.sf.state = .idle) (hb : b = START) : sfByte b s = s.setSf { s.sf with state := .gotStart } := by
  rw [sfByte, hs]
  exact if_pos hb

theorem sfByte_badStart (hs : s.sf.state = .idle) (hb : b ≠ START) : sfByte b s = sfFail .badStart s := by
  rw [sfByte, hs]
  exact if_neg hb

theorem sfByte_code (hs : s.sf.state = .gotStart) (hb : hasCommand b = true) :
    sfByte b s = s.setSf { s.sf with code := b, len := 0, state := if 0 < requiredLength b then .readingData else .gotData } := by
  rw [sfByte, hs]
  exact if_pos hb

theorem sfByte_unknownCode (hs : s.sf.state = .gotStart) (hb : hasCommand b = false) : sfByte b s = sfFail .unknownCode s := by
  rw [sfByte, hs]
  exact if_neg (by simp [hb])

theorem sfByte_data (hs : s.sf.state = .readingData) :
    sfByte b s = s.setSf { s.sf with
      buf := s.sf.buf.set s.sf.len b
      len := s.sf.len + 1
      state := if s.sf.len + 1 = requiredLength s.sf.code then .gotData else .readingData } := by
  rw [sfByte, hs]
  show sfDataByte b s = _
  rw [sfDataByte, hs]

theorem sfByte_checksum (hs : s.sf.state = .gotData) (hb : b = checksum START s.sf.code (s.sf.buf.take s.sf.len)) :
    sfByte b s = (fillInbox s.sf.code (s.sf.buf.take s.sf.len) .serial s).setSf { s.sf with state := .idle, len := 0 } := by
  rw [sfByte, hs]
  exact if_pos hb

theorem sfByte_badChecksum (hs : s.sf.state = .gotData) (hb : b ≠ checksum START s.sf.code (s.sf.buf.take s.sf.len)) :
    sfByte b s = sfFail .badChecksum s := by
  rw [sfByte, hs]
  exact if_neg hb

end

/-! ## Silence (41 R163) -/

theorem serialPoll_silent {s : State} (h : s.rb.available s.cfg.rbCap = 0) (hlisted : s.sched.arrivals = []) :
    serialPoll s = sfNoByte s := by
  rw [serialPoll_of_none h, boundary_none hlisted]

/-- Below SER_TIMEOUT silent polls only count. -/
theorem iterate_serialPoll_silent {s : State} (h : s.rb.available s.cfg.rbCap = 0) (hlisted : s.sched.arrivals = [])
    (hzero : s.sf.idle = 0) {k : Nat} (hk : k < s.cfg.serTimeout) : serialPoll^[k] s = s.setSf { s.sf with idle := k } := by
  induction k with
  | zero => exact congrArg (fun n => s.setSf { s.sf with idle := n }) hzero
  | succ k ih =>
    rw [Function.iterate_succ_apply', ih (by omega), serialPoll_silent (by exact h) (by exact hlisted), sfNoByte_eq,
      if_neg (by exact hk.ne)]
    rfl

/-! ## A whole command, one byte per poll (41 R166) -/

/-- Between two bytes received and polled one by one: nothing held, no interrupt listed. -/
structure NothingHeld (s : State) : Prop where
  ring       : RingOk s.cfg.rbCap s.rb
  empty      : s.rb.empty = true
  arrivals   : s.sched.arrivals = []
  buf_length : s.sf.buf.length = MAX_DATA

theorem NothingHeld.setSf {s : State} (h : NothingHeld s) {f : SerialFramer} (hf : f.buf.length = MAX_DATA) : NothingHeld (s.setSf f) :=
  { h with buf_length := hf }

/-- A byte pushed into an empty ring is the byte the next pop takes, and leaves the ring empty again. -/
theorem Ring.pop_push_of_empty {cap : Nat} {r : Ring} (h : RingOk cap r) (he : r.empty = true) (b : Byte) :
    (r.push cap b).2.available cap ≠ 0 ∧ ((r.push cap b).2.pop cap).1 = b ∧ ((r.push cap b).2.pop cap).2.empty = true := by
  obtain ⟨-, hok, hcontents⟩ := Ring.push_room (b := b) h (h.of_empty he).2
  rw [(Ring.contents_eq_nil_iff h).mpr he, List.nil_append] at hcontents
  have hheld : (r.push cap b).2.available cap ≠ 0 := by
    rw [← Ring.contents_length, hcontents]
    exact Nat.one_ne_zero
  obtain ⟨hsplit, hok'⟩ := Ring.pop_held hok (Bool.eq_false_iff.mpr (mt (Ring.available_empty hok).mpr hheld))
  obtain ⟨hb, hrest⟩ := List.cons.inj (hcontents.symm.trans hsplit)
  exact ⟨hheld, hb.symm, (Ring.contents_eq_nil_iff hok').mp hrest.symm⟩

/-- The poll after a received byte judges that byte; before that it has cleared the idle count. -/
theorem serialPoll_rxByte {s : State} (h : NothingHeld s) (b : Byte) :
    ∃ t, serialPoll (rxByte b s) = sfByte b t ∧ NothingHeld t ∧ t.sf = { s.sf with idle := 0 } ∧ t.log = s.log := by
  obtain ⟨hheld, hbyte, hempty⟩ := Ring.pop_push_of_empty h.ring h.empty b
  let t := (s.setRb ((s.rb.push s.cfg.rbCap b).2.pop s.cfg.rbCap).2).setSf { s.sf with idle := 0 }
  have ht : NothingHeld t := ⟨(h.ring.push b).pop, hempty, h.arrivals, h.buf_length⟩
  refine ⟨t, ?_, ht, rfl, rfl⟩
  rw [rxByte_eq, serialPoll_of_held (by exact hheld), boundary_none (by exact h.arrivals)]
  exact congrArg (sfByte · t) hbyte

/-- Where the framer stands after `n` data bytes of a code's packet. -/
def dataState (code : Byte) (n : Nat) : SerialState := if n = requiredLength code then .gotData else .readingData

/-- The framer holds the data bytes `d` of a packet of `code`, and nothing was logged since `log`. -/
structure Holding (code : Byte) (d : List Byte) (log : List Error) (s : State) : Prop where
  rest  : NothingHeld s
  state : s.sf.state = dataState code d.length
  code  : s.sf.code = code
  len   : s.sf.len = d.length
  held  : s.sf.buf.take s.sf.len = d
  log   : s.log = log

theorem receive_start {s : State} (h : NothingHeld s) (hs : s.sf.state = .idle) :
    NothingHeld (serialPoll (rxByte START s)) ∧ (serialPoll (rxByte START s)).sf.state = .gotStart ∧
      (serialPoll (rxByte START s)).log = s.log := by
  obtain ⟨t, hpoll, ht, hsf, hlog⟩ := serialPoll_rxByte h START
  rw [hpoll, sfByte_start (by rw [hsf, hs]) rfl]
  exact ⟨ht.setSf ht.buf_length, rfl, hlog⟩

theorem receive_code {s : State} (h : NothingHeld s) (hs : s.sf.state = .gotStart) {code : Byte} (hcode : hasCommand code = true) :
    Holding code [] s.log (serialPoll (rxByte code s)) := by
  obtain ⟨t, hpoll, ht, hsf, hlog⟩ := serialPoll_rxByte h code
  rw [hpoll, sfByte_code (by rw [hsf, hs]) hcode]
  refine ⟨ht.setSf ht.buf_length, ?_, rfl, rfl, rfl, hlog⟩
  show (if 0 < requiredLength code then _ else _) = dataState code 0
  rw [dataState]
  by_cases hnone : 0 = requiredLength code
  · rw [if_pos hnone, if_neg (by omega)]
  · rw [if_neg hnone, if_pos (by omega)]

theorem take_set_succ {l : List Byte} {n : Nat} (h : n < l.length) (b : Byte) : (l.set n b).take (n + 1) = l.take n ++ [b] := by
  rw [List.take_add_one, List.take_set_of_le le_rfl, List.getElem?_set_self h, Option.toList_some]

theorem receive_data {code : Byte} {d : List Byte} {log : List Error} {s : State} (h : Holding code d log s)
    (hlt : d.length < requiredLength code) (b : Byte) : Holding code (d ++ [b]) log (serialPoll (rxByte b s)) := by
  obtain ⟨t, hpoll, ht, hsf, hlog⟩ := serialPoll_rxByte h.rest b
  have hreading : t.sf.state = .readingData := by
    rw [hsf]
    exact h.state.trans (if_neg hlt.ne)
  have hlen : t.sf.len = d.length := by rw [hsf]; exact h.len
  have hcode : t.sf.code = code := by rw [hsf]; exact h.code
  have hheld : t.sf.buf.take t.sf.len = d := by rw [hsf]; exact h.held
  have hroom : t.sf.len < t.sf.buf.length := by
    have hle := requiredLength_le code
    rw [ht.buf_length, hlen, MAX_DATA]
    omega
  rw [hpoll, sfByte_data hreading]
  refine ⟨ht.setSf ((List.length_set ..).trans ht.buf_length), ?_, hcode, ?_, ?_, hlog.trans h.log⟩
  · show (if t.sf.len + 1 = requiredLength t.sf.code then _ else _) = _
    rw [hlen, hcode, List.length_append]
    rfl
  · show t.sf.len + 1 = _
    rw [hlen, List.length_append, List.length_singleton]
  · exact (take_set_succ hroom b).trans (by rw [hheld])

theorem receive_all_data {code : Byte} {log : List Error} (rest : List Byte) {d : List Byte} {s : State} (h : Holding code d log s)
    (hlen : (d ++ rest).length = requiredLength code) :
    Holding code (d ++ rest) log (rest.foldl (fun u b => serialPoll (rxByte b u)) s) := by
  induction rest generalizing d s with
  | nil => rwa [List.append_nil]
  | cons b rest ih =>
    have hlt : d.length < requiredLength code := by
      rw [← hlen, List.length_append, List.length_cons]
      omega
    rw [List.append_cons] at hlen ⊢
    exact ih (receive_data h hlt b) hlen

theorem receive_checksum {code : Byte} {d : List Byte} {log : List Error} {s : State} (h : Holding code d log s)
    (hlen : d.length = requiredLength code) :
    ∃ t, serialPoll (rxByte (checksum START code d) s) = (fillInbox code d .serial t).setSf { t.sf with state := .idle, len := 0 } ∧
      t.log = log := by
  obtain ⟨t, hpoll, -, hsf, hlog⟩ := serialPoll_rxByte h.rest (checksum START code d)
  have hcode : t.sf.code = code := by rw [hsf]; exact h.code
  have hheld : t.sf.buf.take t.sf.len = d := by rw [hsf]; exact h.held
  have hstate : t.sf.state = .gotData := by
    rw [hsf]
    exact h.state.trans (if_pos hlen)
  refine ⟨t, ?_, hlog.trans h.log⟩
  rw [hpoll, sfByte_checksum hstate (by rw [hcode, hheld]), hcode, hheld]

end Sys2Proof.Machine

namespace Sys2Proof

open Machine in
/-- Settles O45: each poll judges the byte just received, so START, CODE, the data one by one and the checksum take the framer through
its four states and back. -/
theorem serialFramerReadsBackEveryCommand : Obligations.SerialFramerReadsBackEveryCommand := by
  intro i s hi hring hempty hidle hbuf hlisted t
  have hlen : i.data.length = requiredLength i.code := length_data_of_command hi
  obtain ⟨hstarted, hgotStart, hlog⟩ := receive_start ⟨hring, hempty, hlisted, hbuf⟩ hidle
  have hcoded := receive_code hstarted hgotStart (hasCommand_code hi)
  have hread := receive_all_data i.data hcoded hlen
  rw [List.nil_append] at hread
  obtain ⟨u, hu, hulog⟩ := receive_checksum hread hlen
  have ht : t = (fillInbox i.code i.data .serial u).setSf { u.sf with state := .idle, len := 0 } := by
    rw [← hu]
    show List.foldl _ s (START :: i.code :: (i.data ++ [checksum START i.code i.data])) = _
    rw [List.foldl_cons, List.foldl_cons, List.foldl_append]
    rfl
  rw [ht]
  exact ⟨rfl, fillInbox_payload i.code i.data .serial u, rfl, rfl, rfl, rfl, hulog.trans hlog⟩

open Machine in
/-- Settles O46, by the law of a byte in each state. -/
theorem serialFramerJudgesEveryByte : Obligations.SerialFramerJudgesEveryByte := by
  intro s b failed held
  refine ⟨sfByte_start, sfByte_badStart, sfByte_code, sfByte_unknownCode, sfByte_data, fun hs hb => ?_, sfByte_badChecksum⟩
  rw [sfByte_checksum hs hb]
  exact ⟨rfl, fillInbox_payload s.sf.code held .serial s, rfl, rfl, rfl⟩

open Machine in
/-- Settles O47: the count goes up by one with each silent poll, and the poll that finds it one below SER_TIMEOUT resets. -/
theorem serialTimeoutRecoversTheFramer : Obligations.SerialTimeoutRecoversTheFramer := by
  intro s hpos hnone hlisted hstate hzero
  refine ⟨fun k hk => iterate_serialPoll_silent hnone hlisted hzero hk, ?_⟩
  obtain ⟨k, hk⟩ := Nat.exists_eq_add_of_le' hpos
  rw [hk, Function.iterate_succ_apply', iterate_serialPoll_silent hnone hlisted hzero (by omega),
    serialPoll_silent (by exact hnone) (by exact hlisted), sfNoByte_eq, if_pos (by exact hk.symm), if_neg (by exact hstate)]
  rfl

end Sys2Proof
end

section
/-! PROOFS. The fade controller (44_dimmer_fade sections 1 to 3): one call on one channel, a ramp, and a whole fade step. -/

namespace Sys2Proof.Machine

/-! ## One call (44 R232, R233) -/

section
variable {x : Channel}

theorem Channel.fade_of_lt (hne : x.current ≠ x.target) (hsum : x.fadeAccumulator.toNat + x.fadeSpeed.toNat < 255) :
    x.fade = { x with fadeAccumulator := BitVec.ofNat 8 (x.fadeAccumulator.toNat + x.fadeSpeed.toNat) } := by
  have hfade : fadeSum x = x.fadeAccumulator.toNat + x.fadeSpeed.toNat := Nat.min_eq_left hsum.le
  rw [Channel.fade, if_neg hne, hfade, if_neg hsum.ne]

theorem Channel.fade_of_ge (hne : x.current ≠ x.target) (hsum : 255 ≤ x.fadeAccumulator.toNat + x.fadeSpeed.toNat) :
    x.fade = { x with current := stepToward x.current x.target, fadeAccumulator := 0 } := by
  have hfade : fadeSum x = 255 := Nat.min_eq_right hsum
  rw [Channel.fade, if_neg hne, if_pos hfade]

theorem Channel.fade_target (x : Channel) : x.fade.target = x.target := by
  rw [Channel.fade]
  split_ifs <;> rfl

theorem Channel.fade_fadeSpeed (x : Channel) : x.fade.fadeSpeed = x.fadeSpeed := by
  rw [Channel.fade]
  split_ifs <;> rfl

end

theorem toNat_stepToward_of_lt {c t : Byte} (h : c.toNat < t.toNat) : (stepToward c t).toNat = c.toNat + 1 := by
  rw [stepToward, if_pos h]
  bv_omega

theorem toNat_stepToward_of_gt {c t : Byte} (h : t.toNat < c.toNat) : (stepToward c t).toNat + 1 = c.toNat := by
  rw [stepToward, if_neg h.le.not_gt]
  bv_omega

/-! ## A ramp (44 R234, R236) -/

/-- `ceil(255 / speed)` is the first number of calls whose speeds add up to saturation. -/
theorem ceil_le_iff {speed : Nat} (hspeed : 0 < speed) (n : Nat) : (255 + speed - 1) / speed ≤ n ↔ 255 ≤ n * speed := by
  rw [Nat.div_le_iff_le_mul_add_pred hspeed, Nat.mul_comm]
  omega

theorem toNat_byte_of_lt {n : Nat} (h : n < 256) : (BitVec.ofNat 8 n).toNat = n :=
  (BitVec.toNat_ofNat n 8).trans (Nat.mod_eq_of_lt h)

/-- From a cleared accumulator the calls below saturation only add. -/
theorem Channel.iterate_fade_of_lt {x : Channel} (hacc : x.fadeAccumulator = 0) (hne : x.current ≠ x.target) {n : Nat}
    (hn : n * x.fadeSpeed.toNat < 255) :
    Channel.fade^[n] x = { x with fadeAccumulator := BitVec.ofNat 8 (n * x.fadeSpeed.toNat) } := by
  induction n with
  | zero =>
    rw [Nat.zero_mul]
    exact congrArg (fun a => { x with fadeAccumulator := a }) hacc
  | succ n ih =>
    rw [Nat.succ_mul] at hn ⊢
    have hacc' : (BitVec.ofNat 8 (n * x.fadeSpeed.toNat)).toNat = n * x.fadeSpeed.toNat := toNat_byte_of_lt (by omega)
    rw [Function.iterate_succ_apply', ih (by omega), Channel.fade_of_lt (by exact hne) (by dsimp only; omega)]
    dsimp only
    rw [hacc']

/-- The call that reaches saturation takes one step and leaves the accumulator cleared again. -/
theorem Channel.iterate_fade_step {x : Channel} (hacc : x.fadeAccumulator = 0) (hspeed : x.fadeSpeed ≠ 0) (hne : x.current ≠ x.target) :
    Channel.fade^[(255 + x.fadeSpeed.toNat - 1) / x.fadeSpeed.toNat] x = { x with current := stepToward x.current x.target } := by
  have hpos : 0 < x.fadeSpeed.toNat := Nat.pos_of_ne_zero fun h => hspeed (BitVec.eq_of_toNat_eq h)
  obtain ⟨n, hn⟩ : ∃ n, (255 + x.fadeSpeed.toNat - 1) / x.fadeSpeed.toNat = n + 1 :=
    Nat.exists_eq_add_of_le' ((Nat.le_div_iff_mul_le hpos).mpr (by omega))
  have hbelow : n * x.fadeSpeed.toNat < 255 := by
    rw [← not_le, ← ceil_le_iff hpos, hn]
    omega
  have hsaturated : 255 ≤ (n + 1) * x.fadeSpeed.toNat := (ceil_le_iff hpos _).mp hn.le
  rw [Nat.succ_mul] at hsaturated
  have hacc' : (BitVec.ofNat 8 (n * x.fadeSpeed.toNat)).toNat = n * x.fadeSpeed.toNat := toNat_byte_of_lt (by omega)
  rw [hn, Function.iterate_succ_apply', Channel.iterate_fade_of_lt hacc hne hbelow,
    Channel.fade_of_ge (by exact hne) (by dsimp only; omega), ← hacc]

/-- The distance still to go. -/
def Channel.distance (x : Channel) : Nat := (x.target.toNat - x.current.toNat) + (x.current.toNat - x.target.toNat)

theorem Channel.distance_eq_zero {x : Channel} : x.distance = 0 ↔ x.current = x.target := by
  rw [distance, ← BitVec.toNat_inj]
  omega

/-- One step brings the level one nearer. -/
theorem Channel.distance_step {x : Channel} (hne : x.current ≠ x.target) :
    Channel.distance { x with current := stepToward x.current x.target } + 1 = x.distance := by
  obtain hlt | hgt := Nat.lt_or_gt_of_ne (mt BitVec.eq_of_toNat_eq hne)
  · have hstep := toNat_stepToward_of_lt hlt
    simp only [distance]
    omega
  · have hstep := toNat_stepToward_of_gt hgt
    simp only [distance]
    omega

theorem Channel.iterate_fade_arrives {x : Channel} (hacc : x.fadeAccumulator = 0) (hspeed : x.fadeSpeed ≠ 0) {n : Nat}
    (hn : x.distance * ((255 + x.fadeSpeed.toNat - 1) / x.fadeSpeed.toNat) ≤ n) :
    Channel.fade^[n] x = { x with current := x.target } := by
  induction hd : x.distance generalizing x n with
  | zero =>
    have htarget := Channel.distance_eq_zero.mp hd
    rw [Function.iterate_fixed (Channel.fade_of_current_eq_target htarget)]
    exact congrArg (fun v => { x with current := v }) htarget
  | succ d ih =>
    have hne : x.current ≠ x.target := fun h => by rw [Channel.distance_eq_zero.mpr h] at hd; cases hd
    rw [hd, Nat.succ_mul] at hn
    obtain ⟨m, rfl⟩ := Nat.exists_eq_add_of_le' ((Nat.le_add_left _ _).trans hn)
    have hnearer : Channel.distance { x with current := stepToward x.current x.target } = d :=
      Nat.succ.inj ((Channel.distance_step hne).trans hd)
    rw [Function.iterate_add_apply, Channel.iterate_fade_step hacc hspeed hne]
    exact ih (by exact hacc) (by exact hspeed) (by rw [hnearer]; exact Nat.le_of_add_le_add_right hn) hnearer

/-! ## A whole fade step (44 R231) -/

/-- Changing each entry of a range in turn changes each once. -/
theorem getElem?_foldl_modify_range {α : Type} (f : α → α) (l : List α) (n k : Nat) :
    ((List.range n).foldl (fun m c => m.modify c f) l)[k]? = (fun x => if k < n then f x else x) <$> l[k]? := by
  induction n with
  | zero => simp
  | succ n ih =>
    rw [List.range_succ, List.foldl_append, List.foldl_cons, List.foldl_nil, List.getElem?_modify, ih]
    cases l[k]? with
    | none => rfl
    | some x =>
      simp only [Option.map_eq_map, Option.map_some, Option.some.injEq]
      obtain hlt | rfl | hgt := lt_trichotomy k n
      · rw [if_neg hlt.ne', if_pos hlt, if_pos (by omega)]
      · rw [if_pos rfl, if_neg (lt_irrefl k), if_pos (by omega)]
      · rw [if_neg hgt.ne, if_neg hgt.not_gt, if_neg (by omega)]

theorem foldl_modify_range_length {α : Type} (f : α → α) (l : List α) :
    (List.range l.length).foldl (fun m c => m.modify c f) l = l.map f := by
  refine List.ext_getElem? fun k => ?_
  rw [getElem?_foldl_modify_range, List.getElem?_map, Option.map_eq_map]
  by_cases hk : k < l.length
  · simp [hk]
  · simp [List.getElem?_eq_none (not_lt.mp hk)]

/-- No interrupt at a boundary touches the channel file. -/
theorem fadeStep_ch (s : State) : (fadeStep s).ch = (List.range s.cfg.numChannels).foldl (fun m c => m.modify c Channel.fade) s.ch :=
  (List.foldl_hom State.ch fun t c => by rw [boundary_ch, fadeChannel_ch]).symm

theorem fadeStep_ch_eq_map {s : State} (h : s.ch.length = s.cfg.numChannels) : (fadeStep s).ch = s.ch.map Channel.fade := by
  rw [fadeStep_ch, ← h, foldl_modify_range_length]

end Sys2Proof.Machine

namespace Sys2Proof

open Machine in
/-- Settles O18: interrupts do not touch the channel file, so the fade step is its entries faded one by one. -/
theorem fadeStepFadesEveryChannelOnce : Obligations.FadeStepFadesEveryChannelOnce := by
  intro s h
  refine ⟨fadeStep_ch_eq_map h, fadeStep_frame s, fun hlisted => ?_⟩
  rw [fadeStep_quiet hlisted, fadeStep_ch_eq_map h]

open Machine in
/-- Settles O19: at the target, below saturation, and at saturation upward and downward. -/
theorem fadeMovesOneUnitAtSaturation : Obligations.FadeMovesOneUnitAtSaturation := by
  intro x sum
  refine ⟨x.fade_target, x.fade_fadeSpeed, Channel.fade_of_current_eq_target, fun hne hsum => ?_, fun hlt hsum => ?_,
    fun hgt hsum => ?_⟩
  · rw [Channel.fade_of_lt hne hsum]
    exact ⟨rfl, toNat_byte_of_lt (by omega)⟩
  · have hne : x.current ≠ x.target := fun h => hlt.ne (congrArg BitVec.toNat h)
    rw [Channel.fade_of_ge hne hsum]
    exact ⟨toNat_stepToward_of_lt hlt, rfl⟩
  · have hne : x.current ≠ x.target := fun h => hgt.ne' (congrArg BitVec.toNat h)
    rw [Channel.fade_of_ge hne hsum]
    exact ⟨toNat_stepToward_of_gt hgt, rfl⟩

open Machine in
/-- Settles O21: the ceiling is the first number of calls whose speeds add up to 255. -/
theorem fadePaceIsCeilingOf255OverSpeed : Obligations.FadePaceIsCeilingOf255OverSpeed := by
  intro x hacc hspeed hne k
  refine ⟨fun j hj => ?_, Channel.iterate_fade_step hacc hspeed hne⟩
  have hpos : 0 < x.fadeSpeed.toNat := Nat.pos_of_ne_zero fun h => hspeed (BitVec.eq_of_toNat_eq h)
  have hbelow : j * x.fadeSpeed.toNat < 255 := by rwa [← not_le, ← ceil_le_iff hpos, not_le]
  rw [Channel.iterate_fade_of_lt hacc hne hbelow]

open Machine in
/-- Settles O22, by induction on the distance: each ceiling of calls brings the level one nearer, and at the target it stays. -/
theorem fadeReachesItsTargetOnTime : Obligations.FadeReachesItsTargetOnTime :=
  fun _ hacc hspeed _ hn => Channel.iterate_fade_arrives hacc hspeed hn

end Sys2Proof
end

section
/-! PROOFS. The handlers on the channel file (40_commands sections 2, 3): SETCH, FADE and SETGRP, in range and out of it. -/

namespace Sys2Proof.Machine

/-! ## In range (40 R126 to R129) -/

section
variable {s : State} {c : Byte}

theorem exec_setch_inRange (h : c.toNat < s.cfg.numChannels) (v : Byte) :
    exec (.setch c v) s = .next (respond STATUS_OK (setLevel c.toNat v s)) :=
  congrArg Host.Outcome.next (if_pos ((namesChannel_eq s c).mpr h))

theorem exec_fade_inRange (h : c.toNat < s.cfg.numChannels) (target speed : Byte) :
    exec (.fade c target speed) s = .next (respond STATUS_OK (setFade c.toNat target speed s)) :=
  congrArg Host.Outcome.next (if_pos ((namesChannel_eq s c).mpr h))

theorem exec_setgrp_inRange (h : c.toNat + 3 ≤ s.cfg.numChannels) (r1 r2 r3 : Byte) :
    exec (.setgrp c r1 r2 r3) s = .next (respond STATUS_OK (setGroup c.toNat r1 r2 r3 s)) :=
  congrArg Host.Outcome.next (if_pos ((namesGroup_eq s c).mpr h))

end

/-- Between the three writes of SETGRP no interrupt touches the channel file. -/
theorem setGroup_ch (g : Nat) (r1 r2 r3 : Byte) (s : State) :
    (setGroup g r1 r2 r3 s).ch =
      ((s.ch.modify g fun x => { x with current := r1, target := r1 }).modify (g + 1)
        fun x => { x with current := r2, target := r2 }).modify (g + 2) fun x => { x with current := r3, target := r3 } := by
  simp only [setGroup, setLevel, State.setCh_ch, boundary_ch]

/-- Three neighbouring entries changed, each once. -/
theorem getElem?_modify_three {α : Type} (f1 f2 f3 : α → α) {l : List α} {k g : Nat} {x : α} (hx : l[k]? = some x) :
    (((l.modify g f1).modify (g + 1) f2).modify (g + 2) f3)[k]? =
      some (if k = g then f1 x else if k = g + 1 then f2 x else if k = g + 2 then f3 x else x) := by
  rw [getElem_modify_of_some (getElem_modify_of_some (getElem_modify_of_some hx))]
  by_cases h1 : k = g
  · rw [if_pos h1, if_neg (by omega), if_neg (by omega), if_pos h1]
  · rw [if_neg h1, if_neg h1]
    by_cases h2 : k = g + 1
    · rw [if_pos h2, if_neg (by omega), if_pos h2]
    · rw [if_neg h2, if_neg h2]

/-- A firing at the first boundary inside SETGRP, and none at the second, shows the file with one channel written. -/
theorem setGroup_pwm {s : State} (hlisted : s.sched.arrivals = [[.bamTick]]) (g : Nat) (r1 r2 r3 : Byte) :
    (setGroup g r1 r2 r3 s).bam.pwm =
      (s.ch.modify g fun x => { x with current := r1, target := r1 }).map (levelBit s.bam.plane) := by
  have hfirst : boundary (setLevel g r1 s) = bamTick ((setLevel g r1 s).setSched { s.sched with arrivals := [] }) :=
    boundary_cons (s := setLevel g r1 s) hlisted
  have hsecond : ∀ t : State, t.sched.arrivals = [] → (setLevel (g + 2) r3 (boundary (setLevel (g + 1) r2 t))).bam = t.bam := by
    intro t ht
    rw [boundary_none (s := setLevel (g + 1) r2 t) ht]
    rfl
  rw [setGroup, hfirst, hsecond _ rfl]
  rfl

/-! ## Out of range (60 R275) -/

theorem rejectRange_eq (s : State) : rejectRange s = respond STATUS_ERROR (s.setLog (s.log ++ [.channelRange])) := by
  rw [rejectRange, raise_of_logged rfl rfl]

section
variable {s : State} {c : Byte}

theorem exec_setch_outOfRange (h : s.cfg.numChannels ≤ c.toNat) (v : Byte) : exec (.setch c v) s = .next (rejectRange s) :=
  congrArg Host.Outcome.next (if_neg (mt (namesChannel_eq s c).mp h.not_gt))

theorem exec_fade_outOfRange (h : s.cfg.numChannels ≤ c.toNat) (target speed : Byte) :
    exec (.fade c target speed) s = .next (rejectRange s) :=
  congrArg Host.Outcome.next (if_neg (mt (namesChannel_eq s c).mp h.not_gt))

theorem exec_setgrp_outOfRange (h : s.cfg.numChannels < c.toNat + 3) (r1 r2 r3 : Byte) :
    exec (.setgrp c r1 r2 r3) s = .next (rejectRange s) :=
  congrArg Host.Outcome.next (if_neg (mt (namesGroup_eq s c).mp h.not_ge))

end

/-! ## What no handler but FADE's writes (10 R22) -/

/-- A change of an entry keeps the list's image under what does not see the change. -/
theorem map_modify_of_comp_eq {α β : Type} {f : α → α} {p : α → β} (h : ∀ x, p (f x) = p x) (l : List α) (c : Nat) :
    (l.modify c f).map p = l.map p := by
  refine List.ext_getElem? fun k => ?_
  rw [List.getElem?_map, List.getElem?_map, List.getElem?_modify]
  cases l[k]? with
  | none => rfl
  | some x =>
    simp only [Option.map_eq_map, Option.map_some, Option.some.injEq]
    split
    · exact h x
    · rfl

/-- Every handler leaves the channel file, sets levels in it, or is FADE's one write. -/
theorem exec_ch_map {α : Type} {p : Channel → α} (hlevel : ∀ x v, p { x with current := v, target := v } = p x) {i : Instr}
    {s t : State} (h : exec i s = .next t) :
    t.ch.map p = s.ch.map p ∨ ∃ c target speed, i = .fade c target speed ∧
      t.ch = s.ch.modify c.toNat fun x => { x with target := target, fadeSpeed := speed } := by
  cases i with
  | setch c v =>
    obtain rfl := Host.Outcome.next.inj h
    left
    split
    · exact setLevel_map_ch p hlevel c.toNat v s
    · rw [rejectRange_eq]; rfl
  | fade c target speed =>
    obtain rfl := Host.Outcome.next.inj h
    split
    · exact .inr ⟨c, target, speed, rfl, rfl⟩
    · left; rw [rejectRange_eq]; rfl
  | setgrp g r1 r2 r3 =>
    obtain rfl := Host.Outcome.next.inj h
    left
    split
    · show (setGroup g.toNat r1 r2 r3 s).ch.map p = _
      rw [setGroup_ch, map_modify_of_comp_eq (hlevel · r3), map_modify_of_comp_eq (hlevel · r2), map_modify_of_comp_eq (hlevel · r1)]
    · rw [rejectRange_eq]; rfl
  | setip ip0 ip1 ip2 ip3 =>
    obtain rfl := Host.Outcome.next.inj h
    left
    split
    · rfl
    · split
      · rw [commitBytes_frame]; rfl
      · rfl
  | resp status =>
    cases h
    left
    rw [route_frame]
    rfl
  | test | reboot =>
    cases h
    exact .inl rfl

end Sys2Proof.Machine

namespace Sys2Proof

open Machine in
/-- Settles O24: in range SETCH is one level write and the OK answer. -/
theorem setchSetsCurrentAndTarget : Obligations.SetchSetsCurrentAndTarget := by
  intro s c v _ hc
  exact ⟨_, exec_setch_inRange hc v, rfl, fun k x hx => getElem_modify_of_some hx, List.length_modify .., respond_ok_packet _, rfl⟩

open Machine in
/-- Settles O25: in range FADE is one write of target and speed and the OK answer. -/
theorem fadeSetsTargetAndSpeed : Obligations.FadeSetsTargetAndSpeed := by
  intro s c target speed _ hc
  exact ⟨_, exec_fade_inRange hc target speed, rfl, fun k x hx => getElem_modify_of_some hx, List.length_modify .., respond_ok_packet _, rfl⟩

open Machine in
/-- Settles O26: the three writes change neighbouring channels, each once, and the two boundaries between them write what interrupts do. -/
theorem setgrpSetsThreeChannels : Obligations.SetgrpSetsThreeChannels := by
  intro s g r1 r2 r3 _ hg
  have hexec := exec_setgrp_inRange hg r1 r2 r3
  refine ⟨_, hexec, rfl, fun k x hx => ?_, ?_, respond_ok_packet _, ?_, fun hlisted => ?_⟩
  · show (setGroup g.toNat r1 r2 r3 s).ch[k]? = _
    rw [setGroup_ch, getElem?_modify_three _ _ _ hx]
  · show (setGroup g.toNat r1 r2 r3 s).ch.length = _
    rw [setGroup_ch, List.length_modify, List.length_modify, List.length_modify]
  · rw [respond_frame, setGroup_frame]
  · exact (exec_quiet hlisted hexec).symm

open Machine in
/-- Settles O27: the firing falls after the first write and before the second. -/
theorem setgrpIsNotAtomicAcrossChannels : Obligations.SetgrpIsNotAtomicAcrossChannels := by
  intro s g r1 r2 r3 _ hg hlisted
  refine ⟨_, exec_setgrp_inRange hg r1 r2 r3, fun k x hx => ?_⟩
  show (setGroup g.toNat r1 r2 r3 s).bam.pwm[k]? = _
  rw [setGroup_pwm hlisted, List.getElem?_map, getElem_modify_of_some hx, Option.map_some, levelBit]
  split <;> rfl

open Machine in
/-- Settles O28: each of the three commands is rejected alike. -/
theorem rangeErrorMutatesNothing : Obligations.RangeErrorMutatesNothing := by
  intro s i h
  have hrejected : answers i = true ∧ exec i s = .next (rejectRange s) := by
    obtain ⟨c, v, rfl, hc⟩ | ⟨c, target, speed, rfl, hc⟩ | ⟨g, r1, r2, r3, rfl, hg⟩ := h
    · exact ⟨rfl, exec_setch_outOfRange hc v⟩
    · exact ⟨rfl, exec_fade_outOfRange hc target speed⟩
    · exact ⟨rfl, exec_setgrp_outOfRange hg r1 r2 r3⟩
  obtain ⟨hanswers, hexec⟩ := hrejected
  refine ⟨hanswers, _, hexec, ?_⟩
  rw [rejectRange_eq]
  exact ⟨rfl, respond_error_packet _, rfl⟩

open Machine in
/-- Settles O35: accumulators are seen neither by a level write nor by FADE's write, speeds not by a level write. -/
theorem handlersKeepAccumulatorsAndSpeeds : Obligations.HandlersKeepAccumulatorsAndSpeeds := by
  intro i s t h
  constructor
  · obtain hsame | ⟨c, target, speed, -, hch⟩ := exec_ch_map (p := Channel.fadeAccumulator) (fun _ _ => rfl) h
    · exact hsame
    · rw [hch, map_modify_of_comp_eq]
      exact fun _ => rfl
  · intro hnot
    obtain hsame | ⟨c, target, speed, hi, -⟩ := exec_ch_map (p := Channel.fadeSpeed) (fun _ _ => rfl) h
    · exact hsame
    · exact absurd hi (hnot c target speed)

end Sys2Proof
end

section
/-! PROOFS. The handlers that touch no channel (40_commands section 3): SETIP, REBOOT and the response. -/

namespace Sys2Proof.Machine

/-! ## SETIP (40 R130) -/

section
variable {s : State} {ip0 ip1 ip2 ip3 : Byte}

theorem exec_setip_refused (h : s.ipLatch = true ∨ nvsReadBlock s.cfg.nvsIpAddr s = [ip0, ip1, ip2, ip3]) :
    exec (.setip ip0 ip1 ip2 ip3) s = .next (respond STATUS_ERROR s) := by
  show execSetip ip0 ip1 ip2 ip3 s = _
  rw [execSetip]
  by_cases hlatch : s.ipLatch = true
  · rw [if_pos hlatch]
  · rw [if_neg hlatch, h.resolve_left hlatch, latchAfterCommit, if_neg (by simp)]

theorem exec_setip_committed (hlatch : s.ipLatch = false) (hne : nvsReadBlock s.cfg.nvsIpAddr s ≠ [ip0, ip1, ip2, ip3]) :
    exec (.setip ip0 ip1 ip2 ip3) s =
      .next (respond STATUS_OK
        ((commitBytes s.cfg.nvsIpAddr (nvsReadBlock s.cfg.nvsIpAddr s) [ip0, ip1, ip2, ip3] s).setIpLatch true)) := by
  show execSetip ip0 ip1 ip2 ip3 s = _
  rw [execSetip, if_neg (by simp [hlatch]), latchAfterCommit, if_pos (bne_iff_ne.mpr hne)]

end

/-- What the store reads as after bytes were committed over the ones it held there. -/
theorem commitBytes_read {a : Nat} {olds news : List Byte} {s : State} (hwf : s.env.nvs.wf = true) (hlen : olds.length = news.length)
    (hold : ∀ k old, olds[k]? = some old → s.env.nvs.read (a + k) = old) :
    (∀ k new, news[k]? = some new → (commitBytes a olds news s).env.nvs.read (a + k) = new) ∧
      ∀ b, b < a ∨ a + news.length ≤ b → (commitBytes a olds news s).env.nvs.read b = s.env.nvs.read b := by
  induction olds generalizing a news s with
  | nil =>
    obtain rfl := List.eq_nil_of_length_eq_zero hlen.symm
    exact ⟨nofun, fun _ _ => rfl⟩
  | cons old olds ih =>
    cases news with
    | nil => cases hlen
    | cons new news =>
      have hread := commitByte_read a new s hwf old (hold 0 old rfl)
      obtain ⟨hinside, houtside⟩ := ih (a := a + 1) (news := news) (commitByte_wf a old new s hwf) (Nat.succ.inj hlen) fun k old' hk => by
        rw [hread, if_neg (by omega), ← hold (k + 1) old' hk, Nat.add_assoc, Nat.add_comm 1 k]
      rw [commitBytes, List.length_cons]
      refine ⟨fun k new' hk => ?_, fun b hb => ?_⟩
      · cases k with
        | zero =>
          rw [houtside _ (by omega), hread, if_pos a.add_zero]
          exact Option.some.inj hk
        | succ k =>
          rw [← hinside k new' hk, Nat.add_assoc, Nat.add_comm 1 k]
      · rw [houtside b (by omega), hread, if_neg (by omega)]

/-- A SETIP that was answered OK set the latch. -/
theorem ipLatch_of_setip_ok {s t : State} {ip0 ip1 ip2 ip3 : Byte} (h : exec (.setip ip0 ip1 ip2 ip3) s = .next t)
    (hok : outboxPacket t = [0x41, 0x01, 0x00, 0x00, 0x01]) : t.ipLatch = true := by
  by_cases hrefused : s.ipLatch = true ∨ nvsReadBlock s.cfg.nvsIpAddr s = [ip0, ip1, ip2, ip3]
  · cases (exec_setip_refused hrefused).symm.trans h
    rw [respond_error_packet] at hok
    exact absurd hok (by decide)
  · obtain ⟨hlatch, hne⟩ := not_or.mp hrefused
    cases (exec_setip_committed (Bool.eq_false_iff.mpr hlatch) hne).symm.trans h
    rfl

/-! ## RESP (43 R214; log 13) -/

theorem exec_resp (status : Half) (s : State) : exec (.resp status) s = .next (route (respond status s)) := rfl

section
variable {s : State}

theorem route_of_serial (h : s.inbox.source = .serial) : route s = s.setSerTx (s.serTx ++ outboxPacket s) := by rw [route, h, serialSend]

theorem route_of_network (h : s.inbox.source = .network) : route s = netWrite (outboxPacket s) s := by rw [route, h, netSend]

theorem route_of_digitalInput (h : s.inbox.source = .digitalInput) : route s = s := by rw [route, h]

theorem route_of_none (h : s.inbox.source = .none) : route s = (s.setLog (s.log ++ [.fatalState])).setHalted .haltedFatal := by
  rw [route, h]
  rfl

/-- Routing a command's answer does not halt (43 R214, R213). -/
theorem route_halted (h : s.inbox.source ≠ .none) : (route s).halted = s.halted := by
  cases hsource : s.inbox.source with
  | none => exact absurd hsource h
  | serial => rw [route_of_serial hsource]; rfl
  | network => rw [route_of_network hsource]; rfl
  | digitalInput => rw [route_of_digitalInput hsource]

theorem route_outbox (s : State) : (route s).outbox = s.outbox := by rw [route_frame]

end

end Sys2Proof.Machine

namespace Sys2Proof

open Machine in
/-- Settles O29: the four stored bytes are committed one by one, each written where it differs, before the latch is set. -/
theorem setipCommitsDifferingBytes : Obligations.SetipCommitsDifferingBytes := by
  intro s ip0 ip1 ip2 ip3 a wanted hwf hlatch hdiffers
  have hne : nvsReadBlock s.cfg.nvsIpAddr s ≠ [ip0, ip1, ip2, ip3] := by
    intro hsame
    obtain ⟨p, hp, hpne⟩ := hdiffers
    simp only [nvsReadBlock, List.cons.injEq, and_true] at hsame
    obtain ⟨h0, h1, h2, h3⟩ := hsame
    simp only [wanted, List.mem_cons, List.not_mem_nil, or_false] at hp
    obtain rfl | rfl | rfl | rfl := hp
    · exact hpne h0
    · exact hpne h1
    · exact hpne h2
    · exact hpne h3
  obtain ⟨hinside, houtside⟩ := commitBytes_read (a := a) (olds := nvsReadBlock a s) (news := [ip0, ip1, ip2, ip3]) hwf rfl (by
    intro k old hk
    match k, hk with
    | 0, hk | 1, hk | 2, hk | 3, hk => exact Option.some.inj hk)
  refine ⟨_, exec_setip_committed hlatch hne, rfl, fun p hp => ?_, houtside, ?_, rfl, respond_ok_packet _, ?_⟩
  · simp only [wanted, List.mem_cons, List.not_mem_nil, or_false] at hp
    obtain rfl | rfl | rfl | rfl := hp
    · exact hinside 0 ip0 rfl
    · exact hinside 1 ip1 rfl
    · exact hinside 2 ip2 rfl
    · exact hinside 3 ip3 rfl
  · show (commitBytes a (nvsReadBlock a s) [ip0, ip1, ip2, ip3] s).env.nvsWrites =
      s.env.nvsWrites ++ ((([(a, ip0)] ++ [(a + 1, ip1)]) ++ [(a + 2, ip2)]) ++ [(a + 3, ip3)]).filter _
    simp only [nvsReadBlock, commitBytes, commitByte_writes, List.filter_append, List.append_assoc]
    rfl
  · rw [respond_frame, commitBytes_frame]
    rfl

open Machine in
/-- Settles O30: both refusals are the ERROR answer alone. -/
theorem setipRefusedWritesNothing : Obligations.SetipRefusedWritesNothing :=
  fun _ _ _ _ _ h => ⟨_, exec_setip_refused h, rfl, respond_error_packet _, rfl⟩

open Machine in
/-- Settles O31: the OK answer means the latch is set, and a set latch refuses. -/
theorem secondCommitWritesNothing : Obligations.SecondCommitWritesNothing :=
  fun _ _ _ _ _ _ _ _ _ _ h hok => ⟨_, exec_setip_refused (.inl (ipLatch_of_setip_ok h hok)), respond_error_packet _, rfl⟩

open Machine in
/-- Settles O32, by the handler's one write. -/
theorem rebootHaltsAndBuildsNoAnswer : Obligations.RebootHaltsAndBuildsNoAnswer :=
  ⟨rfl, fun _ => ⟨_, rfl, rfl, rfl⟩⟩

open Machine in
/-- Settles O34: a response has a SETCH's bytes, and routing is a case of the source, which `respond` leaves alone. -/
theorem responseGoesToTheCommandsSource : Obligations.ResponseGoesToTheCommandsSource := by
  intro s status
  have hloopback : decode .toDevice (encode (.resp status)) = .ok (.setch (hiByte status) (loByte status)) [] :=
    decodeReadsBackEveryInstruction (.setch (hiByte status) (loByte status)) [] rfl
  have hpacket : outboxPacket (respond status s) = encode (.resp status) := respond_packet status s
  refine ⟨hloopback, _, exec_resp status s, ?_, ?_, fun h => ?_, fun h => ?_, fun h => ?_, fun h => ?_⟩
  · rw [outboxPacket, route_outbox, ← hpacket, outboxPacket]
  · rw [route_frame]
    rfl
  · rw [route_of_serial (s := respond status s) h, hpacket]
    exact ⟨rfl, rfl, rfl, rfl⟩
  · rw [route_of_network (s := respond status s) h, hpacket]
    exact ⟨rfl, rfl, rfl, rfl⟩
  · rw [route_of_digitalInput (s := respond status s) h, respond_frame]
  · rw [route_of_none (s := respond status s) h]
    exact ⟨rfl, rfl, rfl, rfl⟩

end Sys2Proof
end

section
/-! PROOFS. Dispatch, the arbitrator's two branches, and the `Poll` around them (40_commands section 1, 43_arbitrator). -/

namespace Sys2Proof.Machine

/-! ## Dispatch (40 R120 to R124) -/

/-- A command in the inbox runs with a free value for each operand it lacks, and those are counted as taken. -/
theorem dispatch_of_instr {s : State} {i : Instr} (hw : s.cfg.mailboxWired = true) (h : inboxInstr s = some i) :
    dispatch s = andThen (exec i (tookDraws (missingOperands s) s)) fun t => .next ⟨t, answers i⟩ := by
  rw [dispatch, if_neg (by simp [hw]), h]

theorem dispatch_of_unknown {s : State} (hw : s.cfg.mailboxWired = true) (hc : hasCommand s.inbox.code = false) :
    dispatch s = .next ⟨s, false⟩ := by
  rw [dispatch, if_neg (by simp [hw]), inboxInstr, instrOfCommand_none hc]

theorem dispatch_of_unwired {s : State} (hw : s.cfg.mailboxWired = false) : dispatch s = .next ⟨raise .fatalConfig s, false⟩ :=
  if_pos hw

/-- An answering command of `n` operands: `n - inbox.len` free values are taken, and its answer is due. -/
theorem dispatch_of_answering {s : State} {i : Instr} {n : Nat} (hw : s.cfg.mailboxWired = true) (h : inboxInstr s = some i)
    (hn : requiredLength s.inbox.code = n) (hanswers : answers i = true) :
    dispatch s = andThen (exec i { s with sched := { s.sched with draws := s.sched.draws + (n - s.inbox.len) } })
      fun t => .next ⟨t, true⟩ := by
  rw [dispatch_of_instr hw h, hanswers, missingOperands, hn]
  rfl

/-! ## The arbitrator's branches (43 R210 to R212) -/

theorem arbStep_of_idle {s : State} (h : s.arb.state = .idle) : arbStep s = .next (arbIdle s) := by rw [arbStep, h]

theorem arbStep_of_processing {s : State} (h : s.arb.state = .processing) : arbStep s = arbProcessing s := by rw [arbStep, h]

theorem arbStep_of_undefined {s : State} (h : s.arb.state = .undefinedState) : arbStep s = .next (raise .fatalState s) := by
  rw [arbStep, h]

theorem raise_fatal {e : Error} (hfatal : e.fatal = true) (hlogged : e.logged = true) (s : State) :
    raise e s = { s with log := s.log ++ [e], halted := .haltedFatal } := by
  rw [raise_eq, if_pos hlogged, if_pos hfatal]

theorem setSched_of_listed {s : State} {arrivals : List (List Interrupt)} (h : s.sched.arrivals = arrivals) :
    s.setSched { s.sched with arrivals := arrivals } = s := by
  rw [← h]
  rfl

/-- A `Poll` whose arbitrator step halts ends there: no fade step (60 R300). -/
theorem poll_of_halting {s t : State} (hrun : s.halted = .running) (hlisted : s.sched.arrivals = []) (ht : arbStep s = .next t)
    (hhalt : t.halted ≠ .running) (hlisted' : t.sched.arrivals = []) : poll [] s = .next t := by
  have hbody : pollBody s = .next t := by
    rw [pollBody, if_pos (isRunning_eq_true.mpr hrun), ht, andThen_next, if_neg (mt isRunning_eq_true.mp hhalt)]
  refine poll_eq_next.mpr ⟨t, ?_, (flushArrivals_none hlisted').symm⟩
  rwa [setSched_of_listed hlisted]

/-- A `Poll` whose arbitrator step does not halt goes on to the fade step. -/
theorem poll_of_running {s t : State} (hrun : s.halted = .running) (ht : arbStep s = .next t) (hrun' : t.halted = .running) :
    poll s.sched.arrivals s = .next (flushArrivals (fadeStep (boundary t))) := by
  refine poll_eq_next.mpr ⟨_, ?_, rfl⟩
  rw [setSched_of_listed rfl, pollBody, if_pos (isRunning_eq_true.mpr hrun), ht, andThen_next, if_pos (isRunning_eq_true.mpr hrun')]

/-! ## What follows a handler in its `Poll` (43 R210, R212) -/

theorem afterCommand_of_halted {t : State} (i : Instr) (h : t.halted ≠ .running) : afterCommand i t = flushArrivals t :=
  if_neg (mt isRunning_eq_true.mp h)

/-- The answer of a command that came from somewhere is routed, both mailboxes are cleared, and the fade step follows. -/
theorem afterCommand_of_answering {i : Instr} {t : State} (hrun : t.halted = .running) (hanswers : answers i = true)
    (hsource : t.inbox.source ≠ .none) :
    afterCommand i t = flushArrivals (fadeStep (boundary (clearMailboxes (route t)))) := by
  have hrouted : (route t).isRunning = true := isRunning_eq_true.mpr ((route_halted hsource).trans hrun)
  rw [afterCommand, if_pos (isRunning_eq_true.mpr hrun), if_pos hanswers]
  exact congrArg flushArrivals (if_pos hrouted)

/-- The end of a `Poll`, from the boundary on, touches neither mailbox nor arbitrator nor transport. -/
theorem pollTail_frame (v : State) :
    (flushArrivals (fadeStep (boundary v))).serTx = v.serTx ∧ (flushArrivals (fadeStep (boundary v))).env = v.env ∧
      (flushArrivals (fadeStep (boundary v))).inbox = v.inbox ∧ (flushArrivals (fadeStep (boundary v))).outbox = v.outbox ∧
      (flushArrivals (fadeStep (boundary v))).arb = v.arb := by
  rw [flushArrivals_frame, fadeStep_frame]
  exact ⟨boundary_serTx v, boundary_env v, boundary_inbox v, boundary_outbox v, boundary_arb v⟩

/-- Where the answer to a command goes, and what the `Poll` leaves of the mailboxes (43 R214, R215). -/
theorem afterCommand_sends {i : Instr} {t : State} (hrun : t.halted = .running) (hanswers : answers i = true) :
    (t.inbox.source = .serial →
      (afterCommand i t).serTx = t.serTx ++ outboxPacket t ∧ (afterCommand i t).env.net.sent = t.env.net.sent) ∧
    (t.inbox.source = .network →
      (afterCommand i t).serTx = t.serTx ∧ (afterCommand i t).env.net.sent = t.env.net.sent ++ [outboxPacket t]) ∧
    (t.inbox.source = .digitalInput → (afterCommand i t).serTx = t.serTx ∧ (afterCommand i t).env.net.sent = t.env.net.sent) ∧
    (t.inbox.source ≠ .none →
      (afterCommand i t).inbox.source = .none ∧ (afterCommand i t).outbox.len = 0 ∧ (afterCommand i t).arb.state = .idle) := by
  obtain ⟨hserTx, henv, hinbox, houtbox, harb⟩ := pollTail_frame (clearMailboxes (route t))
  refine ⟨fun h => ?_, fun h => ?_, fun h => ?_, fun h => ?_⟩
  · rw [afterCommand_of_answering hrun hanswers (by simp [h]), hserTx, henv, route_of_serial h]
    exact ⟨rfl, rfl⟩
  · rw [afterCommand_of_answering hrun hanswers (by simp [h]), hserTx, henv, route_of_network h]
    exact ⟨rfl, rfl⟩
  · rw [afterCommand_of_answering hrun hanswers (by simp [h]), hserTx, henv, route_of_digitalInput h]
    exact ⟨rfl, rfl⟩
  · rw [afterCommand_of_answering hrun hanswers h, hinbox, houtbox, harb]
    exact ⟨rfl, rfl, rfl⟩

/-- REBOOT's `Poll` ends with its halt. -/
theorem afterCommand_reboot (t : State) : afterCommand .reboot (t.setHalted .haltedReboot) = flushArrivals (t.setHalted .haltedReboot) :=
  afterCommand_of_halted .reboot (t := t.setHalted .haltedReboot) (by simp)

/-! ## A whole command in the inbox -/

/-- The step of a machine with a whole command in the inbox, dispatch due and a `Poll` next. -/
theorem step_of_command {s : State} {i : Instr} {arrivals : List (List Interrupt)} {later : List Event} (hs : Steppable s)
    (he : s.sched.events = .poll arrivals :: later) (hrun : s.halted = .running) (hw : s.cfg.mailboxWired = true)
    (hstate : s.arb.state = .processing) (hcode : s.inbox.code = i.code) (hdata : s.inbox.payload = i.data)
    (hi : i.direction = .toDevice) :
    step s = andThen (exec i (beginPoll arrivals later s)) fun t => .next (afterCommand i t) := by
  obtain ⟨hinstr, hmissing⟩ := inboxInstr_of (s := beginPoll arrivals later s) hcode hdata (shape_inbox (s := s) hs.shape) hi
  rw [step_of_steppable hs he]
  exact poll_of hrun hstate hw hinstr hmissing

theorem direction_of_decodeTableWord {nbits w : Nat} {i : Instr} (h : decodeTableWord nbits w = some i) : i.direction = .toDevice := by
  rw [decodeTableWord] at h
  split at h
  next j rest hdecode =>
    obtain ⟨-, -, hdirection⟩ := decodeAcceptsOnlyPackets _ _ _ _ hdecode
    rwa [← Option.some.inj h]
  · cases h

theorem withFetchWord_of_decode {nbits w : Nat} {i : Instr} (h : decodeTableWord nbits w = some i) (s : State) :
    s.withFetchWord nbits w = placeCommand i s := by
  rw [State.withFetchWord, placeTableWord, h]

theorem placeCommand_steppable {s : State} (hs : Steppable s) (i : Instr) : Steppable (placeCommand i s) := by
  obtain ⟨hch, hpwm, hin, hrest⟩ := shape_iff.mp hs.shape
  exact ⟨hs.parameters, hs.bindings, shape_iff.mpr ⟨hch, hpwm, commandOk_fill hin ((data_length_le i).trans (by decide)), hrest⟩⟩

end Sys2Proof.Machine

namespace Sys2Proof

open Machine in
/-- Settles O33: REBOOT lacks no operand, its handler halts, and nothing is listed for the end of its `Poll`. -/
theorem rebootEndsItsPollAtOnce : Obligations.RebootEndsItsPollAtOnce := by
  intro s later hs he hrun hw hstate hcode
  have hinstr : inboxInstr (beginPoll [] later s) = some .reboot := by
    show instrOfCommand s.inbox.code _ _ _ _ = _
    rw [hcode]
    rfl
  have hmissing : missingOperands (beginPoll [] later s) = 0 := by
    show requiredLength s.inbox.code - s.inbox.len = 0
    rw [hcode]
    exact Nat.zero_sub _
  have hstep : step s = .next (afterCommand .reboot ((beginPoll [] later s).setHalted .haltedReboot)) := by
    rw [step_of_steppable hs he]
    exact poll_of hrun hstate hw hinstr hmissing
  rw [afterCommand_reboot, flushArrivals_none rfl] at hstep
  refine ⟨_, hstep, rfl, ?_⟩
  rw [beginPoll, ← hs.arrivals_eq_nil]
  rfl

open Machine in
/-- Settles O36: the inbox's bytes are the packet of the instruction, so its handler runs; a command's handler itself sends nothing,
and what follows it routes the answer once. -/
theorem stepRunsTheFramedCommand : Obligations.StepRunsTheFramedCommand := by
  intro s i arrivals later hs he hrun hw hstate hdecode
  obtain ⟨hbytes, -, hi⟩ := decodeAcceptsOnlyPackets _ _ _ _ hdecode
  obtain ⟨hcode, hdata⟩ := packet_inj (hbytes.trans (List.append_nil _))
  have hstep := step_of_command hs he hrun hw hstate hcode hdata hi
  obtain ⟨t, ht⟩ := exec_next i (beginPoll arrivals later s)
  have hnext : step s = .next (afterCommand i t) := by rw [hstep, ht, andThen_next]
  refine ⟨hstep, t, _, ht, hnext, ?_⟩
  obtain ⟨hserTx, hsent, hhalted, hanswers⟩ := exec_command hi ht
  have hinbox : t.inbox = s.inbox := by rw [exec_frame ht]; rfl
  have hserTx' : t.serTx = s.serTx := hserTx
  have hsent' : t.env.net.sent = s.env.net.sent := hsent
  dsimp only
  by_cases hreboot : i = .reboot
  · subst hreboot
    obtain rfl := Host.Outcome.next.inj ht
    rw [if_pos rfl, afterCommand_reboot, flushArrivals_frame]
    exact ⟨fun _ => ⟨(List.append_nil _).symm, rfl⟩, fun _ => ⟨rfl, (List.append_nil _).symm⟩, fun _ => ⟨rfl, rfl⟩,
      fun _ hne => absurd rfl hne⟩
  · obtain ⟨hserial, hnetwork, hpin, hcleared⟩ :=
      afterCommand_sends (t := t) ((hhalted hreboot).trans hrun) (hanswers.trans (decide_eq_true hreboot))
    rw [hinbox, hserTx', hsent'] at hserial hnetwork hpin
    rw [hinbox] at hcleared
    rw [if_neg hreboot, List.flatten_singleton]
    exact ⟨hserial, hnetwork, hpin, fun hsource _ => hcleared hsource⟩

open Machine in
/-- Settles O37: what is placed is a whole command in the inbox, with dispatch due and a `Poll` next. -/
theorem placedWordRunsNext : Obligations.PlacedWordRunsNext := by
  intro s nbits w i hs hw hword
  have hpayload : (placeCommand i s).inbox.payload = i.data := fillInbox_payload i.code i.data .serial s
  have hstep := step_of_command (s := placeCommand i s) (i := i) (placeCommand_steppable hs i) rfl rfl hw rfl rfl hpayload
    (direction_of_decodeTableWord hword)
  refine ⟨beginPoll [] s.sched.events (placeCommand i s), rfl, hpayload, rfl, ?_, ?_⟩
  · rw [beginPoll, ← hs.arrivals_eq_nil]
    rfl
  · rw [withFetchWord_of_decode hword]
    exact hstep

open Machine in
/-- Settles O38: no row is found for the code, and the arbitrator clears all the same. -/
theorem unknownCodeIsANoOp : Obligations.UnknownCodeIsANoOp := by
  refine ⟨fun s => rfl, fun s hw hc => ⟨dispatch_of_unknown hw hc, fun hrun hstate => ?_⟩⟩
  have hrunning := isRunning_eq_true.mpr hrun
  rw [arbStep_of_processing hstate, arbProcessing, dispatch_of_unknown hw hc, andThen_next, if_pos hrunning]
  exact congrArg Host.Outcome.next (if_pos hrunning)

open Machine in
/-- Settles O39: both errors are fatal and logged, and a `Poll` whose arbitrator step halts ends there. -/
theorem absentMailboxIsFatal : Obligations.AbsentMailboxIsFatal := by
  unfold Obligations.AbsentMailboxIsFatal
  intro halts s
  have hhalts : ∀ e, arbStep s = .next { s with log := s.log ++ [e], halted := .haltedFatal } → halts s e := fun e hstep =>
    ⟨hstep, fun hrun hlisted => poll_of_halting hrun hlisted hstep nofun hlisted⟩
  refine ⟨fun hstate hw => hhalts _ ?_, fun hstate => hhalts _ ?_⟩
  · rw [arbStep_of_processing hstate, arbProcessing, dispatch_of_unwired hw, andThen_next, raise_fatal rfl rfl]
    rfl
  · rw [arbStep_of_undefined hstate, raise_fatal rfl rfl]

open Machine in
/-- Settles O40: the row of the inbox's code is found whatever its length, and its operands are `operand`'s. -/
theorem missingOperandIsAFreeValue : Obligations.MissingOperandIsAFreeValue := by
  intro s hw op runs
  have hfound : ∀ i, instrOfCommand s.inbox.code (op 0) (op 1) (op 2) (op 3) = some i → inboxInstr s = some i := fun _ h => h
  refine ⟨fun hcode => ?_, fun hcode => ?_, fun hcode => ?_, fun hcode => ?_⟩ <;>
    exact dispatch_of_answering hw (hfound _ (by rw [hcode]; rfl)) (by rw [hcode]; rfl) rfl

end Sys2Proof
end

section
/-! PROOFS. The arbitrator in `Idle` and in `Processing` (43_arbitrator sections 1, 2): whose turn it is. -/

namespace Sys2Proof.Machine

/-- What the sourcer in turn leaves, before the arbitrator looks at the inbox. -/
def polledInTurn (s : State) : State := pollSourcer s.arb.rr (s.setArb { s.arb with rr := s.arb.rr.next })

theorem arbIdle_eq (s : State) :
    arbIdle s = if (polledInTurn s).inbox.source = .none then polledInTurn s
      else (polledInTurn s).setArb { (polledInTurn s).arb with state := .processing } :=
  ite_not ..

/-- The sourcers leave the arbitrator's registers to the arbitrator. -/
theorem pollSourcer_arb (turn : Turn) (s : State) : (pollSourcer turn s).arb = s.arb := by
  cases turn with
  | digitalInput => rw [pollSourcer, diPoll_frame]
  | serial => rw [pollSourcer, serialPoll_frame]
  | network => rw [pollSourcer, netPoll_frame]

theorem arbIdle_arb {s : State} (h : s.arb.state = .idle) :
    (arbIdle s).arb = { state := if (arbIdle s).inbox.source = .none then .idle else .processing, rr := s.arb.rr.next } := by
  have harb : (polledInTurn s).arb = { state := s.arb.state, rr := s.arb.rr.next } := pollSourcer_arb _ _
  rw [arbIdle_eq]
  by_cases hempty : (polledInTurn s).inbox.source = .none
  · rw [if_pos hempty, if_pos hempty, harb, h]
  · rw [if_neg hempty, State.setArb_inbox, if_neg hempty, State.setArb_arb, harb]

/-- What the sourcers not in turn hold stays, and so does what handlers and send paths write. -/
theorem arbIdle_frame {s : State} (h : s.inbox.source = .none) :
    (s.arb.rr ≠ .serial → (arbIdle s).sf = s.sf ∧ (arbIdle s).rb = s.rb ∧ (arbIdle s).inbox.source ≠ .serial) ∧
    (s.arb.rr ≠ .network → (arbIdle s).nfIdle = s.nfIdle ∧ (arbIdle s).env = s.env ∧ (arbIdle s).inbox.source ≠ .network) ∧
    (s.arb.rr ≠ .digitalInput → (arbIdle s).di = s.di ∧ (arbIdle s).inbox.source ≠ .digitalInput) ∧
    (arbIdle s).ch = s.ch ∧ (arbIdle s).outbox = s.outbox ∧ (arbIdle s).ipLatch = s.ipLatch ∧ (arbIdle s).halted = s.halted ∧
    (arbIdle s).serTx = s.serTx := by
  obtain ⟨t, ht, -, hframe⟩ := arbIdle_spec s h
  rw [ht]
  split <;> exact hframe

end Sys2Proof.Machine

namespace Sys2Proof

open Machine in
/-- Settles O41: `arbIdle` polls the sourcer of the turn on the state with the turn advanced, and `Processing` follows a full inbox. -/
theorem idlePollsOneSourcerInTurn : Obligations.IdlePollsOneSourcerInTurn := by
  intro s hstate hsource advanced
  obtain ⟨hserial, hnetwork, hpin, hch, hout, hlatch, hhalted, hserTx⟩ := arbIdle_frame hsource
  have harb := arbIdle_arb hstate
  have hturn : ∀ turn, s.arb.rr = turn → polledInTurn s = pollSourcer turn (advanced turn.next) ∧ (arbIdle s).arb.rr = turn.next := by
    rintro turn rfl
    rw [harb]
    exact ⟨rfl, rfl⟩
  exact ⟨polledInTurn s, arbIdle s, arbStep_of_idle hstate, hturn .digitalInput, hturn .serial, hturn .network, arbIdle_eq s,
    by rw [harb], hserial, hnetwork, hpin, hch, hout, hlatch, hhalted, hserTx,
    fun hrun => poll_of_running hrun (arbStep_of_idle hstate) (hhalted.trans hrun)⟩

open Machine in
/-- Settles O42: dispatch, route and clear write none of the sourcers' registers, and with nothing listed no interrupt runs. -/
theorem noSourcerRunsWhileProcessing : Obligations.NoSourcerRunsWhileProcessing := by
  intro s t hstate ht
  rw [arbStep_of_processing hstate] at ht
  obtain ⟨d, hd, hcases⟩ := arbProcessing_cases ht
  have hquiet := fun hlisted => dispatch_quiet (s := s) hlisted hd
  have hdispatched : ∀ u, u = d.state ∨ u = route d.state →
      u.arb.rr = s.arb.rr ∧ u.sf = s.sf ∧ u.nfIdle = s.nfIdle ∧ u.di = s.di ∧ u.env.net.rx = s.env.net.rx ∧
        u.env.net.readSizes = s.env.net.readSizes ∧ (s.sched.arrivals = [] → u.rb = s.rb ∧ u.bam = s.bam) := by
    rintro u (rfl | rfl)
    · rw [dispatch_frame hd] at hquiet ⊢
      exact ⟨rfl, rfl, rfl, rfl, rfl, rfl, hquiet⟩
    · rw [route_frame]
      rw [dispatch_frame hd] at hquiet ⊢
      exact ⟨rfl, rfl, rfl, rfl, rfl, rfl, hquiet⟩
  obtain ⟨-, rfl⟩ | ⟨-, u, hu, ⟨-, rfl⟩ | ⟨-, rfl⟩⟩ := hcases
  · exact hdispatched _ (.inl rfl)
  · exact hdispatched u hu
  · exact hdispatched _ hu

end Sys2Proof
end

section
/-! PROOFS. The digital-input sourcer (42_datagram_and_digital_sourcers section 2): one binding for each poll (R190, R197). -/

namespace Sys2Proof.Machine

theorem readPin_of_set {p : Nat} {s : State} {v : Bool} (h : s.env.pins.lookup p = some v) : (readPin p s).1 = v := by
  rw [readPin, h]

theorem diPoll_of_binding {s : State} {b : Binding} (h : s.cfg.bind[s.di.idx]? = some b) : diPoll s = samplePin b s := by
  rw [diPoll, h]

theorem diPoll_of_no_bindings {s : State} (h : s.cfg.bind = []) : diPoll s = s := by
  rw [diPoll, h, List.getElem?_nil]

/-- The state after one sample, before a trigger is looked for: history and index written, whatever the trigger. -/
def sampled (b : Binding) (s : State) : State :=
  (readPin b.pin s).2.setDi
    { idx := (s.di.idx + 1) % s.cfg.bind.length, hist := s.di.hist.set s.di.idx (readPin b.pin s).1 }

theorem samplePin_eq {b : Binding} {s : State} {prev : Bool} (h : s.di.hist[s.di.idx]? = some prev) :
    samplePin b s =
      if trigger b.mode prev (readPin b.pin s).1 then fillInbox b.code b.data .digitalInput (sampled b s) else sampled b s := by
  have hprev : s.di.hist.getD s.di.idx false = prev := by rw [List.getD, h, Option.getD_some]
  rw [← hprev]
  rfl

theorem sampled_inbox (b : Binding) (s : State) : (sampled b s).inbox = s.inbox := by
  rw [sampled, readPin_frame]
  rfl

end Sys2Proof.Machine

namespace Sys2Proof

open Machine in
/-- Settles O54: one sample, then the trigger decides whether the inbox is filled; with no bindings the turn alone moves. -/
theorem pinPollSamplesExactlyOneBinding : Obligations.PinPollSamplesExactlyOneBinding := by
  refine ⟨fun s b prev hb hprev => ⟨(readPin b.pin s).1, fun v hv => readPin_of_set hv, ?_, fun htrigger => ?_, fun hnone => ?_,
    diPoll_frame s⟩, fun s hnone => ⟨diPoll_of_no_bindings hnone, fun harb hsource => ?_⟩⟩
  · rw [diPoll_of_binding hb, samplePin_eq hprev]
    split <;> rfl
  · rw [diPoll_of_binding hb, samplePin_eq hprev, if_pos htrigger]
    exact ⟨rfl, fillInbox_payload b.code b.data .digitalInput _, rfl⟩
  · rw [diPoll_of_binding hb, samplePin_eq hprev, if_neg (by simp [hnone]), sampled_inbox]
  · have hpolled : polledInTurn s = s.setArb { state := .idle, rr := .serial } := by
      rw [polledInTurn, harb]
      exact diPoll_of_no_bindings (s := s.setArb _) hnone
    rw [arbStep_of_idle (by rw [harb]), arbIdle_eq, hpolled]
    exact congrArg Host.Outcome.next (if_pos hsource)

end Sys2Proof
end

section
/-! PROOFS. The log carries no behaviour (10_state section 6, 60_exceptions section 1): every operation takes states that differ in
the log alone to states that differ in the log alone. -/

namespace Sys2Proof.Machine

/-- `s'` is `s` but for the log. -/
def SameButLog (s s' : State) : Prop := ∃ l, s' = s.setLog l

theorem SameButLog.map {f : State → State} {s s' : State} (h : SameButLog s s') (hf : ∀ s l, f (s.setLog l) = (f s).setLog l) :
    SameButLog (f s) (f s') := by
  obtain ⟨l, rfl⟩ := h
  exact ⟨l, hf s l⟩

theorem SameButLog.read {α : Type} {f : State → α} {s s' : State} (h : SameButLog s s') (hf : ∀ s l, f (s.setLog l) = f s) :
    f s' = f s := by
  obtain ⟨l, rfl⟩ := h
  exact hf s l

/-- A choice that both make alike. -/
theorem SameButLog.ite {c c' : Prop} [Decidable c] [Decidable c'] (hc : c' ↔ c) {s s' t t' : State} (hs : SameButLog s s')
    (ht : SameButLog t t') : SameButLog (if c then s else t) (if c' then s' else t') := by
  by_cases h : c
  · rwa [if_pos h, if_pos (hc.mpr h)]
  · rwa [if_neg h, if_neg (mt hc.mp h)]

/-! ## Interrupts -/

theorem takeInterrupt_setLog (i : Interrupt) (s : State) (l : List Error) :
    takeInterrupt i (s.setLog l) = (takeInterrupt i s).setLog l := by
  cases i with
  | rxByte b => rw [takeInterrupt, takeInterrupt, rxByte_eq, rxByte_eq]; rfl
  | bamTick => rfl

theorem takeInterrupts_setLog (is : List Interrupt) (s : State) (l : List Error) :
    takeInterrupts is (s.setLog l) = (takeInterrupts is s).setLog l := by
  induction is generalizing s with
  | nil => rfl
  | cons i is ih => rw [takeInterrupts_cons, takeInterrupts_cons, takeInterrupt_setLog, ih]

theorem boundary_setLog (s : State) (l : List Error) : boundary (s.setLog l) = (boundary s).setLog l := by
  cases h : s.sched.arrivals with
  | nil => rw [boundary_none h, boundary_none (s := s.setLog l) h]
  | cons here later =>
    rw [boundary_cons h, boundary_cons (s := s.setLog l) h]
    exact takeInterrupts_setLog here (s.setSched { s.sched with arrivals := later }) l

theorem flushArrivals_setLog (s : State) (l : List Error) : flushArrivals (s.setLog l) = (flushArrivals s).setLog l :=
  takeInterrupts_setLog _ (s.setSched { s.sched with arrivals := [] }) l

section
variable {s s' : State} (h : SameButLog s s')
include h

/-! ## Fields and single writes -/

theorem SameButLog.cfg : s'.cfg = s.cfg := h.read fun _ _ => rfl
theorem SameButLog.arb : s'.arb = s.arb := h.read fun _ _ => rfl
theorem SameButLog.inbox : s'.inbox = s.inbox := h.read fun _ _ => rfl
theorem SameButLog.sf : s'.sf = s.sf := h.read fun _ _ => rfl
theorem SameButLog.rb : s'.rb = s.rb := h.read fun _ _ => rfl
theorem SameButLog.nfIdle : s'.nfIdle = s.nfIdle := h.read fun _ _ => rfl
theorem SameButLog.di : s'.di = s.di := h.read fun _ _ => rfl
theorem SameButLog.ipLatch : s'.ipLatch = s.ipLatch := h.read fun _ _ => rfl
theorem SameButLog.isRunning : s'.isRunning = s.isRunning := h.read fun _ _ => rfl
theorem SameButLog.env : s'.env = s.env := h.read fun _ _ => rfl
theorem SameButLog.sched : s'.sched = s.sched := h.read fun _ _ => rfl

theorem SameButLog.setArb (v : Arbitrator) : SameButLog (s.setArb v) (s'.setArb v) :=
  h.map (f := (·.setArb v)) fun _ _ => rfl
theorem SameButLog.setSf (v : SerialFramer) : SameButLog (s.setSf v) (s'.setSf v) :=
  h.map (f := (·.setSf v)) fun _ _ => rfl
theorem SameButLog.setRb (v : Ring) : SameButLog (s.setRb v) (s'.setRb v) :=
  h.map (f := (·.setRb v)) fun _ _ => rfl
theorem SameButLog.setNfIdle (v : Nat) : SameButLog (s.setNfIdle v) (s'.setNfIdle v) :=
  h.map (f := (·.setNfIdle v)) fun _ _ => rfl
theorem SameButLog.setDi (v : PinSourcer) : SameButLog (s.setDi v) (s'.setDi v) :=
  h.map (f := (·.setDi v)) fun _ _ => rfl
theorem SameButLog.setIpLatch (v : Bool) : SameButLog (s.setIpLatch v) (s'.setIpLatch v) :=
  h.map (f := (·.setIpLatch v)) fun _ _ => rfl
theorem SameButLog.setHalted (v : Halt) : SameButLog (s.setHalted v) (s'.setHalted v) :=
  h.map (f := (·.setHalted v)) fun _ _ => rfl
theorem SameButLog.setSched (v : Schedule) : SameButLog (s.setSched v) (s'.setSched v) :=
  h.map (f := (·.setSched v)) fun _ _ => rfl
theorem SameButLog.setLog (v v' : List Error) : SameButLog (s.setLog v) (s'.setLog v') := by
  obtain ⟨l, rfl⟩ := h
  exact ⟨v', rfl⟩

theorem SameButLog.tookDraws (n : Nat) : SameButLog (tookDraws n s) (tookDraws n s') := h.map fun _ _ => rfl
theorem SameButLog.respond (status : Half) : SameButLog (respond status s) (respond status s') :=
  h.map fun _ _ => rfl
theorem SameButLog.fillInbox (code : Byte) (d : List Byte) (src : Source) :
    SameButLog (fillInbox code d src s) (fillInbox code d src s') := h.map fun _ _ => rfl
theorem SameButLog.setLevel (c : Nat) (v : Byte) : SameButLog (setLevel c v s) (setLevel c v s') :=
  h.map fun _ _ => rfl
theorem SameButLog.setFade (c : Nat) (target speed : Byte) : SameButLog (setFade c target speed s) (setFade c target speed s') :=
  h.map fun _ _ => rfl
theorem SameButLog.nvsWriteByte (a : Nat) (v : Byte) : SameButLog (nvsWriteByte a v s) (nvsWriteByte a v s') :=
  h.map fun _ _ => rfl
theorem SameButLog.fadeChannel (c : Nat) : SameButLog (fadeChannel c s) (fadeChannel c s') := h.map fun _ _ => rfl
theorem SameButLog.serialSend : SameButLog (serialSend s) (serialSend s') := h.map fun _ _ => rfl
theorem SameButLog.netSend : SameButLog (netSend s) (netSend s') := h.map fun _ _ => rfl
theorem SameButLog.netClose : SameButLog (netClose s) (netClose s') := h.map fun _ _ => rfl
theorem SameButLog.sfReset : SameButLog (sfReset s) (sfReset s') := h.map fun _ _ => rfl
theorem SameButLog.clearMailboxes : SameButLog (clearMailboxes s) (clearMailboxes s') := h.map fun _ _ => rfl

/-- An error appends to either log, and halts both or neither. -/
theorem SameButLog.raise (e : Error) : SameButLog (raise e s) (raise e s') := by
  obtain ⟨l, rfl⟩ := h
  rw [raise_eq, raise_eq]
  exact ⟨_, rfl⟩

theorem SameButLog.takeInterrupt (i : Interrupt) : SameButLog (takeInterrupt i s) (takeInterrupt i s') :=
  h.map (takeInterrupt_setLog i)

theorem SameButLog.boundary : SameButLog (boundary s) (boundary s') := h.map boundary_setLog

theorem SameButLog.flushArrivals : SameButLog (flushArrivals s) (flushArrivals s') := h.map flushArrivals_setLog

/-! ## The sourcers -/

theorem SameButLog.sfIdleByte (b : Byte) : SameButLog (sfIdleByte b s) (sfIdleByte b s') := by
  rw [Machine.sfIdleByte, Machine.sfIdleByte, h.sf]
  exact .ite .rfl (h.setSf _) (h.raise _).sfReset

theorem SameButLog.sfCodeByte (b : Byte) : SameButLog (sfCodeByte b s) (sfCodeByte b s') := by
  rw [Machine.sfCodeByte, Machine.sfCodeByte, h.sf]
  exact .ite .rfl (h.setSf _) (h.raise _).sfReset

theorem SameButLog.sfDataByte (b : Byte) : SameButLog (sfDataByte b s) (sfDataByte b s') := by
  rw [Machine.sfDataByte, Machine.sfDataByte, h.sf]
  exact h.setSf _

theorem SameButLog.sfChecksumByte (b : Byte) : SameButLog (sfChecksumByte b s) (sfChecksumByte b s') := by
  rw [Machine.sfChecksumByte, Machine.sfChecksumByte, h.sf]
  exact .ite .rfl (h.fillInbox _ _ _).sfReset (h.raise _).sfReset

theorem SameButLog.sfByte (b : Byte) : SameButLog (sfByte b s) (sfByte b s') := by
  rw [Machine.sfByte, Machine.sfByte, h.sf]
  cases s.sf.state with
  | idle => exact h.sfIdleByte b
  | gotStart => exact h.sfCodeByte b
  | readingData => exact h.sfDataByte b
  | gotData => exact h.sfChecksumByte b

theorem SameButLog.sfNoByte : SameButLog (sfNoByte s) (sfNoByte s') := by
  rw [sfNoByte_eq, sfNoByte_eq, h.sf, h.cfg]
  exact .ite .rfl (.ite .rfl (h.setSf _) ((h.setLog _ _).setSf _)) (h.setSf _)

theorem SameButLog.popAndJudge : SameButLog (popAndJudge s) (popAndJudge s') := by
  rw [Machine.popAndJudge, Machine.popAndJudge, h.sf, h.rb, h.cfg]
  exact ((h.setRb _).setSf _).sfByte _

theorem SameButLog.serialPoll : SameButLog (serialPoll s) (serialPoll s') := by
  by_cases hnone : s.rb.available s.cfg.rbCap = 0
  · have hnone' : s'.rb.available s'.cfg.rbCap = 0 := by rwa [h.rb, h.cfg]
    rw [serialPoll_of_none hnone, serialPoll_of_none hnone']
    exact h.boundary.sfNoByte
  · have hnone' : s'.rb.available s'.cfg.rbCap ≠ 0 := by rwa [h.rb, h.cfg]
    rw [serialPoll_of_held hnone, serialPoll_of_held hnone']
    exact h.boundary.popAndJudge

theorem SameButLog.netPacket (buf : List Byte) : SameButLog (netPacket buf s) (netPacket buf s') := by
  rw [Machine.netPacket, Machine.netPacket]
  cases datagramError buf with
  | none => exact h.fillInbox _ _ _
  | some e => exact (h.raise e).netClose.setNfIdle 0

theorem SameButLog.netNoData : SameButLog (netNoData s) (netNoData s') := by
  rw [Machine.netNoData, Machine.netNoData, h.nfIdle, h.cfg, h.env]
  exact .ite .rfl ((h.raise _).netClose.setNfIdle 0) (h.setNfIdle _)

/-- A read takes the same bytes and leaves the same rest. -/
theorem SameButLog.netRead : (netRead s').1 = (netRead s).1 ∧ SameButLog (netRead s).2 (netRead s').2 := by
  obtain ⟨l, rfl⟩ := h
  refine ⟨rfl, l, ?_⟩
  unfold Machine.netRead
  dsimp only
  rw [State.setLog_env]
  split <;> rfl

theorem SameButLog.netPoll : SameButLog (netPoll s) (netPoll s') := by
  by_cases hrx : s.env.net.rx = []
  · rw [netPoll_of_silent hrx, netPoll_of_silent (by rwa [h.env])]
    exact h.netNoData
  · obtain ⟨hbytes, hrest⟩ := h.netRead
    rw [netPoll_of_readable hrx, netPoll_of_readable (by rwa [h.env]), hbytes]
    exact (hrest.setNfIdle 0).netPacket _

theorem SameButLog.readPin (p : Nat) : (readPin p s').1 = (readPin p s).1 ∧ SameButLog (readPin p s).2 (readPin p s').2 := by
  unfold Machine.readPin
  rw [h.env, h.sched]
  cases s.env.pins.lookup p with
  | some v => exact ⟨rfl, h⟩
  | none => exact ⟨rfl, h.tookDraws 1⟩

theorem SameButLog.samplePin (b : Binding) : SameButLog (samplePin b s) (samplePin b s') := by
  obtain ⟨hlevel, hread⟩ := h.readPin b.pin
  rw [Machine.samplePin, Machine.samplePin, h.di, h.cfg, hlevel]
  exact .ite .rfl ((hread.setDi _).fillInbox _ _ _) (hread.setDi _)

theorem SameButLog.diPoll : SameButLog (diPoll s) (diPoll s') := by
  rw [Machine.diPoll, Machine.diPoll, h.di, h.cfg]
  cases s.cfg.bind[s.di.idx]? with
  | none => exact h
  | some b => exact h.samplePin b

theorem SameButLog.pollSourcer (turn : Turn) : SameButLog (pollSourcer turn s) (pollSourcer turn s') := by
  cases turn with
  | digitalInput => exact h.diPoll
  | serial => exact h.serialPoll
  | network => exact h.netPoll

/-! ## The handlers -/

theorem SameButLog.setGroup (g : Nat) (r1 r2 r3 : Byte) : SameButLog (setGroup g r1 r2 r3 s) (setGroup g r1 r2 r3 s') :=
  ((((h.setLevel _ _).boundary).setLevel _ _).boundary).setLevel _ _

theorem SameButLog.rejectRange : SameButLog (rejectRange s) (rejectRange s') := (h.raise _).respond _

theorem SameButLog.commitByte (a : Nat) (old new : Byte) : SameButLog (commitByte a old new s) (commitByte a old new s') :=
  .ite .rfl (h.nvsWriteByte a new) h

theorem SameButLog.commitBytes (a : Nat) (olds news : List Byte) : SameButLog (commitBytes a olds news s) (commitBytes a olds news s') := by
  induction olds generalizing a news s s' with
  | nil => exact h
  | cons old olds ih =>
    cases news with
    | nil => exact h
    | cons new news => exact ih (h.commitByte a old new) (a + 1) news

theorem SameButLog.route : SameButLog (route s) (route s') := by
  rw [Machine.route, Machine.route, h.inbox]
  cases s.inbox.source with
  | serial => exact h.serialSend
  | network => exact h.netSend
  | digitalInput => exact h
  | none => exact h.raise _

theorem SameButLog.exec (i : Instr) {t : State} (ht : exec i s = .next t) : ∃ t', exec i s' = .next t' ∧ SameButLog t t' := by
  have hchannel : ∀ c, namesChannel s' c = namesChannel s c := fun c => by rw [namesChannel, namesChannel, h.cfg]
  have hgroup : ∀ g, namesGroup s' g = namesGroup s g := fun g => by rw [namesGroup, namesGroup, h.cfg]
  have hstored : nvsReadBlock s'.cfg.nvsIpAddr s' = nvsReadBlock s.cfg.nvsIpAddr s := by rw [nvsReadBlock, nvsReadBlock, h.cfg, h.env]
  cases i with
  | test =>
    obtain rfl := Host.Outcome.next.inj ht
    exact ⟨_, rfl, h.respond _⟩
  | setch c v =>
    obtain rfl := Host.Outcome.next.inj ht
    exact ⟨_, rfl, .ite (by rw [hchannel]) ((h.setLevel _ _).respond _) h.rejectRange⟩
  | fade c target speed =>
    obtain rfl := Host.Outcome.next.inj ht
    exact ⟨_, rfl, .ite (by rw [hchannel]) ((h.setFade _ _ _).respond _) h.rejectRange⟩
  | setgrp g r1 r2 r3 =>
    obtain rfl := Host.Outcome.next.inj ht
    exact ⟨_, rfl, .ite (by rw [hgroup]) ((h.setGroup _ _ _ _).respond _) h.rejectRange⟩
  | setip ip0 ip1 ip2 ip3 =>
    obtain rfl := Host.Outcome.next.inj ht
    refine ⟨_, rfl, .ite (by rw [h.ipLatch]) (h.respond _) (.ite (by rw [hstored]) ?_ (h.respond _))⟩
    rw [hstored, h.cfg]
    exact ((h.commitBytes _ _ _).setIpLatch true).respond _
  | reboot =>
    obtain rfl := Host.Outcome.next.inj ht
    exact ⟨_, rfl, h.setHalted _⟩
  | resp status =>
    obtain rfl := Host.Outcome.next.inj ht
    exact ⟨_, rfl, (h.respond _).route⟩

/-! ## Dispatch, the arbitrator, the `Poll` -/

theorem SameButLog.dispatch {d : Dispatched} (hd : dispatch s = .next d) :
    ∃ d', dispatch s' = .next d' ∧ SameButLog d.state d'.state ∧ d'.due = d.due := by
  have hinstr : inboxInstr s' = inboxInstr s := by
    simp only [inboxInstr, operand, h.inbox, h.sched]
  have hmissing : missingOperands s' = missingOperands s := by rw [missingOperands, missingOperands, h.inbox]
  obtain ⟨hw, hs⟩ | ⟨hw, hnone, hs⟩ | ⟨i, t, hw, hi, hexec, hs⟩ := dispatch_cases s
  · cases hs.symm.trans hd
    exact ⟨_, dispatch_of_unwired (by rwa [h.cfg]), h.raise .fatalConfig, rfl⟩
  · cases hs.symm.trans hd
    refine ⟨⟨s', false⟩, ?_, h, rfl⟩
    rw [Machine.dispatch, if_neg (by simp [h.cfg, hw]), hinstr, hnone]
  · cases hs.symm.trans hd
    obtain ⟨t', hexec', ht'⟩ := (h.tookDraws (missingOperands s)).exec i hexec
    refine ⟨⟨t', answers i⟩, ?_, ht', rfl⟩
    rw [dispatch_of_instr (by rwa [h.cfg]) (hinstr.trans hi), hmissing, hexec', andThen_next]

theorem SameButLog.polledInTurn : SameButLog (polledInTurn s) (polledInTurn s') := by
  rw [Machine.polledInTurn, Machine.polledInTurn, h.arb]
  exact (h.setArb _).pollSourcer _

theorem SameButLog.arbIdle : SameButLog (arbIdle s) (arbIdle s') := by
  rw [arbIdle_eq, arbIdle_eq, h.polledInTurn.inbox, h.polledInTurn.arb]
  exact .ite .rfl h.polledInTurn (h.polledInTurn.setArb _)

theorem SameButLog.arbProcessing {t : State} (ht : arbProcessing s = .next t) :
    ∃ t', arbProcessing s' = .next t' ∧ SameButLog t t' := by
  obtain ⟨d, hd, hbranch⟩ := andThen_eq_next.mp ht
  obtain ⟨d', hd', hstate, hdue⟩ := h.dispatch hd
  have hrouted : SameButLog (if d.due then Machine.route d.state else d.state) (if d'.due then Machine.route d'.state else d'.state) :=
    .ite (by rw [hdue]) hstate.route hstate
  rw [Machine.arbProcessing, hd', andThen_next, hstate.isRunning]
  by_cases hrun : d.state.isRunning = true
  · rw [if_pos hrun] at hbranch ⊢
    obtain rfl := Host.Outcome.next.inj hbranch
    exact ⟨_, rfl, .ite (by rw [hrouted.isRunning]) hrouted.clearMailboxes hrouted⟩
  · rw [if_neg hrun] at hbranch ⊢
    obtain rfl := Host.Outcome.next.inj hbranch
    exact ⟨_, rfl, hstate⟩

theorem SameButLog.arbStep {t : State} (ht : arbStep s = .next t) : ∃ t', arbStep s' = .next t' ∧ SameButLog t t' := by
  cases hstate : s.arb.state with
  | idle =>
    cases (arbStep_of_idle hstate).symm.trans ht
    exact ⟨_, arbStep_of_idle (by rwa [h.arb]), h.arbIdle⟩
  | processing =>
    rw [arbStep_of_processing hstate] at ht
    rw [arbStep_of_processing (by rwa [h.arb])]
    exact h.arbProcessing ht
  | undefinedState =>
    cases (arbStep_of_undefined hstate).symm.trans ht
    exact ⟨_, arbStep_of_undefined (by rwa [h.arb]), h.raise _⟩

theorem SameButLog.fadeStep : SameButLog (fadeStep s) (fadeStep s') := by
  rw [Machine.fadeStep, Machine.fadeStep, h.cfg]
  exact List.foldl_rel h fun c _ _ _ ht => (ht.fadeChannel c).boundary

theorem SameButLog.pollBody {t : State} (ht : pollBody s = .next t) : ∃ t', pollBody s' = .next t' ∧ SameButLog t t' := by
  rw [Machine.pollBody, h.isRunning]
  obtain ⟨hrun, rfl⟩ | ⟨hrun, u, hu, htail⟩ := pollBody_cases ht
  · rw [if_neg (Bool.eq_false_iff.mp hrun)]
    exact ⟨_, rfl, h⟩
  · obtain ⟨u', hu', hsame⟩ := h.arbStep hu
    rw [if_pos hrun, hu', andThen_next, hsame.isRunning]
    obtain ⟨hrun', rfl⟩ | ⟨hrun', rfl⟩ := htail
    · rw [if_pos hrun']
      exact ⟨_, rfl, hsame.boundary.fadeStep⟩
    · rw [if_neg (Bool.eq_false_iff.mp hrun')]
      exact ⟨_, rfl, hsame⟩

theorem SameButLog.poll {arrivals : List (List Interrupt)} {t : State} (ht : poll arrivals s = .next t) :
    ∃ t', poll arrivals s' = .next t' ∧ SameButLog t t' := by
  obtain ⟨u, hu, rfl⟩ := poll_eq_next.mp ht
  obtain ⟨u', hu', hsame⟩ := (h.setSched { s.sched with arrivals := arrivals }).pollBody hu
  exact ⟨_, poll_eq_next.mpr ⟨u', by rwa [h.sched], rfl⟩, hsame.flushArrivals⟩

/-! ## The step -/

theorem SameButLog.runEvent {e : Event} {t : State} (ht : runEvent e s = .next t) :
    ∃ t', runEvent e s' = .next t' ∧ SameButLog t t' := by
  cases e with
  | poll arrivals => exact h.poll ht
  | interrupt i =>
    obtain rfl := Host.Outcome.next.inj ht
    exact ⟨_, rfl, h.takeInterrupt i⟩
  | reset | pin | netData | netReadSize | netSession =>
    obtain rfl := Host.Outcome.next.inj ht
    obtain ⟨l, rfl⟩ := h
    exact ⟨_, rfl, _, rfl⟩

theorem SameButLog.nextEvent : (nextEvent s').1 = (nextEvent s).1 ∧ SameButLog (nextEvent s).2 (nextEvent s').2 := by
  unfold Machine.nextEvent
  rw [h.sched]
  cases s.sched.events with
  | nil => exact ⟨rfl, h.tookDraws 1⟩
  | cons e later => exact ⟨rfl, h.setSched _⟩

end

theorem steppable_of_step {s t : State} (h : step s = .next t) : Steppable s := by
  rw [step, stepChecked] at h
  split_ifs at h with hparameters hbindings hshape
  exact ⟨by simpa using hparameters, by simpa using hbindings, by simpa using hshape⟩

theorem Steppable.setLog {s : State} (h : Steppable s) (l : List Error) : Steppable (s.setLog l) :=
  ⟨h.parameters, h.bindings, h.shape⟩

end Sys2Proof.Machine

namespace Sys2Proof

open Machine in
/-- Settles O60: no check and no move reads the log, so states that differ in it alone step to states that differ in it alone. -/
theorem logIsNeverRead : Obligations.LogIsNeverRead := by
  intro s t l ht
  have hs := steppable_of_step ht
  have hsame : SameButLog s (s.setLog l) := ⟨l, rfl⟩
  obtain ⟨hevent, hrest⟩ := hsame.nextEvent
  rw [step_of_wellFormed hs] at ht
  obtain ⟨-, ht', l', rfl⟩ := hrest.runEvent ht
  exact ⟨l', by rw [step_of_wellFormed (hs.setLog l), hevent, ht']⟩

end Sys2Proof
end
